-- ==== Sys2Proof/Word.lean ====
section
/-! DEFINITION. The word types of the register port, the command word and the pixels (00_scope.md R9: bits are
numbered from 0 at the least significant bit; every register and command word has 32 bits). -/

namespace Sys2Proof

/-- One register or command word (R9, R101). -/
abbrev Word := BitVec 32

/-- One unsigned 8-bit pixel, or one byte of a sample file (R19 (a), R106). -/
abbrev Byte := BitVec 8

/-- A slot index: the unsigned 4-bit number of a `DST`, `SRCA` or `SRCB` field, of `OPENSLOT` and of `RSEL`
(30_encoding.md R141, 10_state.md R71, R72). -/
abbrev SlotIx := BitVec 4

/-- The word index `off[7:2]` the register port carries (20_memory.md R101): 64 words, so a narrower, misaligned or
out-of-range access cannot be written down (R107). -/
abbrev RegIx := BitVec 6

end Sys2Proof
end

