-- ==== Sys2Proof/Config.lean ====
section
/-! DEFINITION. What an implementation of the block fixes: the parameters of 00_scope.md R7 with their reference
values, and the numeric primitives that R30 leaves to the implementation, as uninterpreted constants. -/

namespace Sys2Proof.Config

/-- Which instance of the record `NUM` (R30) the block holds. `reference` is the instance of the formulas of R26 to
R29; `implementation` is any other instance, of which only the properties R30 lists are known. -/
inductive NumInstance where
  | reference
  | implementation
deriving DecidableEq, Repr

/-- `KAISER_BETA` (R7): any real `β ≥ 0`. `rat` is a rational one, such as the reference value 5; `real` is the real
number `Σ` of `betaWhole` and the binary digits `betaDigit`, of which nothing is known, so it may be any (assumption
log 11). -/
inductive KaiserBeta where
  | rat (v : Rat)
  | real
deriving DecidableEq, Repr

/-- The whole part of the `β` of a block with `KaiserBeta.real`. -/
opaque betaWhole : Nat

/-- Binary digit `k` after the point of the `β` of a block with `KaiserBeta.real`. -/
opaque betaDigit : (k : Nat) → Bool

/-- The implementation parameters of R7 (`FMT` is fixed at binary32, 92_eei_decisions.md D2). They are not state of
the spec (10_state.md R50): the model keeps them as data beside the state so that a statement about every state is one
about every parameter value (assumption log 2). -/
structure Params where
  /-- `NSLOT`, the number of buffer slots. -/
  nslot : Nat
  /-- `MAXLEN`, the largest element count of one signal buffer. -/
  maxlen : Nat
  /-- `MAXTAPS`, the largest tap count `BPDESIGN` accepts. -/
  maxtaps : Nat
  /-- `KAISER_BETA`. -/
  kaiserBeta : KaiserBeta
  /-- `AA_ZC`, zero crossings per side of the decimator's filter. -/
  aaZc : Nat
  /-- `RSP_ZC`, zero crossings per side of the resampling kernel. -/
  rspZc : Nat
  /-- `NUM`. -/
  num : NumInstance
  /-- `ID_VALUE`. -/
  idValue : Word
deriving DecidableEq, Repr

/-- `0 ≤ KAISER_BETA`; the digits of `KaiserBeta.real` name no other. -/
def KaiserBeta.ok : KaiserBeta → Bool
  | .rat v => decide (0 ≤ v)
  | .real => true

/-- The constraints of the third column of R7's table. -/
def Params.ok (p : Params) : Bool :=
  decide (1 ≤ p.nslot) && decide (p.nslot ≤ 16) && decide (1 ≤ p.maxlen)
    && decide (p.maxtaps % 2 = 1) && decide (p.maxtaps ≤ 65535)
    && p.kaiserBeta.ok && decide (1 ≤ p.aaZc) && decide (1 ≤ p.rspZc)

/-- The reference values of R7, which every test vector of 95_test_vectors.md assumes. -/
def reference : Params where
  nslot := 8
  maxlen := 16777216
  maxtaps := 1023
  kaiserBeta := .rat 5
  aaZc := 10
  rspZc := 10
  num := .reference
  idValue := 0x41505401#32

/-! The uninterpreted instance of `NUM` (R30, 93_implementation_defined.md U3). Nothing in Lean can evaluate these;
`Machine/Num.lean` shapes them so that exactly the properties of R30's table hold. Each takes the arguments R30 lets
it depend on. Assumption log 4. -/

/-- An implementation's value at index `n` of `NUM.henv(x)`, up to its sign. -/
opaque henvValue : (x : List Rat) → (n : Nat) → Rat

/-- An implementation's coefficient `k` of `NUM.bpdesign(low, high, fs, taps)`, for `k` up to the centre. -/
opaque bpdesignValue : (beta : KaiserBeta) → (low high fs : Rat) → (taps k : Nat) → Rat

/-- Half the length (rounded down) of an implementation's `NUM.antialias(q)`. -/
opaque antialiasHalf : (beta : KaiserBeta) → (aaZc q : Nat) → Nat

/-- An implementation's coefficient `k` of `NUM.antialias(q)`, for `k` up to the centre. -/
opaque antialiasValue : (beta : KaiserBeta) → (aaZc q k : Nat) → Rat

/-- An implementation's output `m` of `NUM.resample(x, fs, pr, Mout)`. -/
opaque resampleValue : (beta : KaiserBeta) → (rspZc : Nat) → (x : List Rat) → (fs pr : Rat) → (mout m : Nat) → Rat

/-- A value inside an enclosure `[lo, hi]` that no precision has narrowed down to one element of `F` and that is not
recognised as a boundary between two: a case that is not known to occur (assumption log 5). -/
opaque undecidedValue : (lo hi : Rat) → Rat

end Sys2Proof.Config
end

