-- ==== Sys2Proof/Syntax.lean ====
section
/-! DEFINITION. The fourteen commands of 30_encoding.md R144, one constructor per row of spec/opcode_table.json. -/

namespace Sys2Proof

/-- The kind of a signal buffer: REAL (code 0) or COMPLEX (code 1) (10_state.md R52). -/
inductive SigKind where
  | real
  | complex
deriving DecidableEq, Repr

/-- The operation code `OPC` of a command word: the fourteen rows of R144. -/
inductive Opcode where
  | nop | bopen | bclose | bfree
  | demod | dcrem
  | decim | resamp
  | bpdesign | bpapply
  | agc
  | extract
  | formimg | combine
deriving DecidableEq, Repr

/-- A command. Slots are 4-bit indexes, in the order `DST`, `SRCA`, `SRCB` of R141; the immediates are those of R143. -/
inductive Instr where
  /-- `nop` -/
  | nop
  /-- `bopen bD, kind` -/
  | bopen (d : SlotIx) (kind : SigKind)
  /-- `bclose` -/
  | bclose
  /-- `bfree bD` -/
  | bfree (d : SlotIx)
  /-- `demod bD, bA` -/
  | demod (d a : SlotIx)
  /-- `dcrem bD, bA` -/
  | dcrem (d a : SlotIx)
  /-- `decim bD, bA` -/
  | decim (d a : SlotIx)
  /-- `resamp bD, bA` -/
  | resamp (d a : SlotIx)
  /-- `bpdesign bA` -/
  | bpdesign (a : SlotIx)
  /-- `bpapply bD, bA` -/
  | bpapply (d a : SlotIx)
  /-- `agc bD, bA` -/
  | agc (d a : SlotIx)
  /-- `extract bD, bA, ch` -/
  | extract (d a : SlotIx) (ch : BitVec 2)
  /-- `formimg bD, bA, C` -/
  | formimg (d a : SlotIx) (c : BitVec 4)
  /-- `combine bD, bA, bB` -/
  | combine (d a b : SlotIx)
deriving DecidableEq, Repr

/-- The operation code of a command. -/
def Instr.op : Instr → Opcode
  | .nop => .nop
  | .bopen _ _ => .bopen
  | .bclose => .bclose
  | .bfree _ => .bfree
  | .demod _ _ => .demod
  | .dcrem _ _ => .dcrem
  | .decim _ _ => .decim
  | .resamp _ _ => .resamp
  | .bpdesign _ => .bpdesign
  | .bpapply _ _ => .bpapply
  | .agc _ _ => .agc
  | .extract _ _ _ => .extract
  | .formimg _ _ _ => .formimg
  | .combine _ _ _ => .combine

/-- The `DST` field, for a command that has one: every command but `NOP`, `BCLOSE` and `BPDESIGN`
(60_exceptions.md R284 (b)). -/
def Instr.dst : Instr → Option SlotIx
  | .nop => none
  | .bopen d _ => some d
  | .bclose => none
  | .bfree d => some d
  | .demod d _ => some d
  | .dcrem d _ => some d
  | .decim d _ => some d
  | .resamp d _ => some d
  | .bpdesign _ => none
  | .bpapply d _ => some d
  | .agc d _ => some d
  | .extract d _ _ => some d
  | .formimg d _ _ => some d
  | .combine d _ _ => some d

/-- The source slots of a command, `SRCA` before `SRCB` (10_state.md R55). -/
def Instr.sources : Instr → List SlotIx
  | .nop => []
  | .bopen _ _ => []
  | .bclose => []
  | .bfree _ => []
  | .demod _ a => [a]
  | .dcrem _ a => [a]
  | .decim _ a => [a]
  | .resamp _ a => [a]
  | .bpdesign a => [a]
  | .bpapply _ a => [a]
  | .agc _ a => [a]
  | .extract _ a _ => [a]
  | .formimg _ a _ => [a]
  | .combine _ a b => [a, b]

/-- Every slot field the command uses, in the order `DST`, `SRCA`, `SRCB` in which R145 checks them. -/
def Instr.slotFields (i : Instr) : List SlotIx :=
  i.dst.toList ++ i.sources

/-- The commands that design a filter, and so lose it when they fail (60_exceptions.md R284 (b)). -/
def Instr.designsFilter : Instr → Bool
  | .nop => false
  | .bopen _ _ => false
  | .bclose => false
  | .bfree _ => false
  | .demod _ _ => false
  | .dcrem _ _ => false
  | .decim _ _ => false
  | .resamp _ _ => false
  | .bpdesign _ => true
  | .bpapply _ _ => false
  | .agc _ _ => false
  | .extract _ _ _ => true
  | .formimg _ _ _ => false
  | .combine _ _ _ => false

end Sys2Proof
end

