-- ==== Sys2Proof/Machine/State.lean ====
section
/-! DEFINITION. The state of the block (10_state.md R50 to R77) as plain data, what the host sends it, and the state after
reset. -/

namespace Sys2Proof.Machine

/-! ### Buffers and slots (R51 to R53) -/

/-- The data of a signal buffer: elements of `F` (REAL) or pairs of them, `(re, im)` (COMPLEX) (R52, 00_scope.md R10).
An element of `F` is held as the real number it is, a rational (R14). -/
inductive Samples where
  | real (xs : List Rat)
  | complex (zs : List (Rat × Rat))
deriving DecidableEq, Repr

/-- The `kind` of a signal buffer (R52). -/
def Samples.kind : Samples → SigKind
  | .real _ => .real
  | .complex _ => .complex

/-- `len`, the number of complete elements (R52). -/
def Samples.length : Samples → Nat
  | .real xs => xs.length
  | .complex zs => zs.length

/-- A signal buffer (R52). Its `kind` is that of its data. -/
structure Signal where
  rate : Rat
  chan : BitVec 2
  data : Samples
deriving DecidableEq, Repr

/-- An image (R53); `pix` is row-major. -/
structure Image where
  rows : Nat
  width : Nat
  pix : List Byte
deriving DecidableEq, Repr

/-- A complete buffer value (R51). -/
inductive Buffer where
  | signal (b : Signal)
  | image (im : Image)
deriving DecidableEq, Repr

/-- The three states of a slot (R51). -/
inductive Slot where
  /-- EMPTY -/
  | empty
  /-- OPEN: a signal buffer being loaded through `WDATA` -/
  | opened (b : Signal)
  /-- VALID -/
  | valid (b : Buffer)
deriving DecidableEq, Repr

/-! ### Registers -/

/-- `FSPEC` (R56). -/
structure FilterSpec where
  valid : Bool
  low : Rat
  high : Rat
  fs : Rat
  taps : Nat
  coef : List Rat
deriving DecidableEq, Repr

/-- The class in `STATUS.ERR` (60_exceptions.md R281); the values 6 and 7 never appear. -/
inductive ErrClass where
  | ok
  | configuration
  | insufficientData
  | numericRange
  | illegalCommand
  | capacity
deriving DecidableEq, Repr

/-- The reason codes of `ERRINFO.REASON` (R283); codes not listed never appear. -/
inductive Reason where
  | none
  | rateNonpos | bandOrder | nyquist | taps | decimLt1 | rateMismatch | shapeMismatch | lineWidth | cfgNonfinite
  | shortFilter | shortDecim | shortLine | oddWords
  | nonfiniteInput | overflow
  | reservedOpcode | reservedField | badSlot | slotState | kind | noFilter | portClosed
  | capacity
deriving DecidableEq, Repr

/-- The stage codes of `ERRINFO.STAGE` (R285). -/
inductive Stage where
  | decode | buffer | env | decim | bpdesign | bpapply | agc | dcrem | resamp | formimg | combine
deriving DecidableEq, Repr

/-- `ERRINFO` (10_state.md R59). -/
structure ErrInfo where
  opc : BitVec 8
  stage : Stage
  reason : Reason
deriving DecidableEq, Repr

/-- The configuration registers (R61 to R70), each the 32 bits last written. `FLT_CTRL` is hard-wired (R68) and stores
nothing. -/
structure CfgRegs where
  /-- `SDR_SAMPLE_RATE` (R61) -/
  sdrSampleRate : Word
  /-- `DEC_CARRIER_FREQ` (R62) -/
  decCarrierFreq : Word
  /-- `DEC_LINE_RATE` (R63) -/
  decLineRate : Word
  /-- `DEC_PIXELS_PER_LINE` (R64) -/
  decPixelsPerLine : Word
  /-- `DEC_AUDIO_RATE` (R65) -/
  decAudioRate : Word
  /-- `FLT_BP_LOW` (R66) -/
  fltBpLow : Word
  /-- `FLT_BP_HIGH` (R67) -/
  fltBpHigh : Word
  /-- `FLT_FIR_TAPS` (R69) -/
  fltFirTaps : Word
  /-- `FLT_ORDER` (R68) -/
  fltOrder : Word
  /-- `AGC_TARGET` (R70) -/
  agcTarget : Word
deriving DecidableEq, Repr

/-! ### What the host does to the block (20_memory.md R101, R102) -/

/-- One thing the outside sends: a register access at a word index, or the reset input. There is no other
(70_reset_and_hazards.md R337). -/
inductive HostInput where
  /-- `RegWrite(4 * ix, w)` -/
  | regWrite (ix : RegIx) (w : Word)
  /-- `RegRead(4 * ix)` -/
  | regRead (ix : RegIx)
  /-- the reset input is asserted and released -/
  | reset
deriving DecidableEq, Repr

/-! ### The state -/

/-- The state of one block (R50), with the three fields the model adds: the parameters (assumption log 2), and what the
host is about to send and has read (assumption log 1). -/
structure State where
  /-- `B[0..NSLOT-1]` (R51); an index from `NSLOT` on is no slot, and `slotAt` shows it EMPTY (R72) -/
  slots : Vector Slot 16
  /-- `FSPEC` (R56) -/
  fspec : FilterSpec
  /-- `STATUS.ERR` (R58) -/
  err : ErrClass
  /-- `STATUS.STICKY` (R58) -/
  sticky : Bool
  /-- `STATUS.DEGEN` (R58) -/
  degen : Bool
  /-- `ERRINFO` (R59) -/
  errInfo : ErrInfo
  /-- the configuration registers (R61 to R70) -/
  cfg : CfgRegs
  /-- `OPENV` (R71) -/
  openV : Bool
  /-- `OPENSLOT` (R71) -/
  openSlot : SlotIx
  /-- `WPEND` (R71) -/
  wpend : Option Rat
  /-- `RSEL` (R72) -/
  rsel : SlotIx
  /-- `RPTR` (R72) -/
  rptr : Word
  /-- `FSPTR` (R74) -/
  fsptr : Word
  /-- the model's own: the implementation parameters (00_scope.md R7); no step changes them -/
  par : Config.Params
  /-- the model's own: what the host sends from here on, the next input first (70_reset_and_hazards.md R336) -/
  pending : List HostInput
  /-- the model's own: the read-back of R336, the oldest word first -/
  readBack : List Word
deriving DecidableEq, Repr

/-- Why a machine could stop for good. This one never does: an error is a result (60_exceptions.md R280) and the block is
afterwards in an ordinary state (R286), so no step raises a fault. The one constructor is there for the interface only;
nothing raises it, which is safe. -/
inductive Fault where
  /-- raised by nothing: every access completes (R286, 70_reset_and_hazards.md R335) -/
  | neverRaised
deriving DecidableEq, Repr

/-- Why the model would have no meaning for a command. Every command has one. -/
inductive Refusal where
  /-- an instruction without a meaning; raised by no arm of `exec`, which is safe -/
  | notModelled (mnemonic : String)
deriving DecidableEq, Repr

/-! ### Reset (R77, 70_reset_and_hazards.md R320) -/

/-- The configuration registers after reset (R77): the documented defaults, 0 where there is none, `AGC_TARGET` 1.0. -/
def CfgRegs.reset : CfgRegs where
  sdrSampleRate := 0x00000000#32
  decCarrierFreq := 0x45160000#32
  decLineRate := 0x40000000#32
  decPixelsPerLine := 0x00001040#32
  decAudioRate := 0x46A28000#32
  fltBpLow := 0x450FC000#32
  fltBpHigh := 0x451C4000#32
  fltFirTaps := 0x00000000#32
  fltOrder := 0x00000000#32
  agcTarget := 0x3F800000#32

/-- `FSPEC` after reset: invalid; its other fields cannot be observed while it is (R77), and the model holds 0 and `[]`
in them (DESIGN CHOICE, assumption log 8). -/
def FilterSpec.reset : FilterSpec where
  valid := false
  low := 0
  high := 0
  fs := 0
  taps := 0
  coef := []

/-- The reset state of a block with the given parameters, which a reset does not change (R321). -/
def State.resetWith (p : Config.Params) : State where
  slots := Vector.replicate 16 .empty
  fspec := .reset
  err := .ok
  sticky := false
  degen := false
  errInfo := { opc := 0#8, stage := .decode, reason := .none }
  cfg := .reset
  openV := false
  openSlot := 0#4
  wpend := none
  rsel := 0#4
  rptr := 0#32
  fsptr := 0#32
  par := p
  pending := []
  readBack := []

/-- The machine right after reset, with the reference parameters of 00_scope.md R7. -/
def State.reset : State := State.resetWith Config.reference

end Sys2Proof.Machine
end

