-- ==== Sys2Proof/Machine/Numerics.lean ====
section
/-! DEFINITION. The number format (00_scope.md R14 to R17): the elements of `F` as rationals, `rnd`, `enc`, `dec`, and the
exact primitives that leave no freedom (`rhe`, the median of R23, `Same` of R24). -/

namespace Sys2Proof.Machine

/-! ### Rationals -/

/-- `2^e` for any integer `e`. -/
def pow2 (e : Int) : Rat :=
  match e with
  | .ofNat n => mkRat (2 ^ n : Nat) 1
  | .negSucc n => mkRat 1 (2 ^ (n + 1))

/-- `|v|`. -/
def rabs (v : Rat) : Rat := if v < 0 then -v else v

/-- `rhe(v)`: round to the nearest integer, ties to the even one (R11). -/
def rhe (v : Rat) : Int :=
  if v - v.floor < mkRat 1 2 then v.floor
  else if mkRat 1 2 < v - v.floor then v.floor + 1
  else if v.floor % 2 = 0 then v.floor
  else v.floor + 1

/-- `floor(log2 v)` for a rational `v > 0`. -/
def ilog2 (v : Rat) : Int :=
  if pow2 ((Nat.log2 v.num.natAbs : Int) - (Nat.log2 v.den : Int)) ≤ v then
    (Nat.log2 v.num.natAbs : Int) - (Nat.log2 v.den : Int)
  else (Nat.log2 v.num.natAbs : Int) - (Nat.log2 v.den : Int) - 1

/-- The largest `r` with `r * r ≤ n`, when `r < 2 ^ k` bits suffice: bit by bit, the highest first. -/
def isqrtFrom (n : Nat) : (k : Nat) → (r : Nat) → Nat
  | 0, r => r
  | k + 1, r => isqrtFrom n k (if (r + 2 ^ k) * (r + 2 ^ k) ≤ n then r + 2 ^ k else r)

/-- `floor(sqrt n)`. -/
def isqrt (n : Nat) : Nat := isqrtFrom n (Nat.log2 n / 2 + 1) 0

/-! ### The format (R14, R15) -/

/-- The exponent of the unit in the last place of binary32 at magnitude `v`: precision 24 bits, no exponent below that of
the smallest subnormal `2^-149` (R14). -/
def ulpExp (v : Rat) : Int :=
  if v = 0 then -149 else max (-149) (ilog2 (rabs v) - 23)

/-- `2^128 - 2^103`, which is `(2 - 2^-24) * 2^127`: from here on `rnd` overflows (R15). -/
def overflowBound : Rat := pow2 128 - pow2 103

/-- Membership in `F` (R14): a multiple of its own unit in the last place, below `2^128` in magnitude. -/
def isF (v : Rat) : Bool :=
  decide (v = (v / pow2 (ulpExp v)).floor * pow2 (ulpExp v)) && decide (rabs v < pow2 128)

/-- `rnd(v)` for a rational `v` (R15); `none` is the overflow. -/
def rndRat (v : Rat) : Option Rat :=
  if overflowBound ≤ rabs v then none
  else some (rhe (v / pow2 (ulpExp v)) * pow2 (ulpExp v))

/-- The exponent of the unit in the last place at magnitude `sqrt q`, for `q ≥ 0`. -/
def rootUlpExp (q : Rat) : Int :=
  if q ≤ 0 then -149 else max (-149) (ilog2 q / 2 - 23)

/-- `rhe(sqrt t)` for a rational `t ≥ 0`, decided by comparing `t` with the square of the midpoint above
`floor(sqrt t)`. -/
def rheRoot (t : Rat) : Nat :=
  let s := isqrt t.floor.toNat
  if 4 * t < ((2 * s + 1) * (2 * s + 1) : Nat) then s
  else if (((2 * s + 1) * (2 * s + 1) : Nat) : Rat) < 4 * t then s + 1
  else if s % 2 = 0 then s
  else s + 1

/-- `rnd(sqrt q)` for a rational `q ≥ 0` (R15), exact: no approximation of the root is formed. -/
def rndRoot (q : Rat) : Option Rat :=
  if overflowBound * overflowBound ≤ q then none
  else some ((rheRoot (q / pow2 (2 * rootUlpExp q)) : Nat) * pow2 (rootUlpExp q))

/-! ### Words (R16) -/

/-- `dec(w)`: the real number a binary32 pattern encodes, 0 for both zeros; `none` for a non-finite one. -/
def dec (w : Word) : Option Rat :=
  let e := (w.extractLsb' 23 8).toNat
  let f := (w.extractLsb' 0 23).toNat
  let sign : Int := if w.getLsbD 31 then -1 else 1
  if e = 255 then none
  else if e = 0 then some (mkRat (sign * f) (2 ^ 149))
  else if e < 150 then some (mkRat (sign * (2 ^ 23 + f : Nat)) (2 ^ (150 - e)))
  else some (mkRat (sign * ((2 ^ 23 + f) * 2 ^ (e - 150) : Nat)) 1)

/-- `enc(v)`: the binary32 pattern of an element of `F`, sign bit clear for 0. -/
def enc (v : Rat) : Word :=
  let e := ulpExp v
  let m := (rabs v / pow2 e).floor.toNat
  let sign := BitVec.ofBool (decide (v < 0))
  if m < 2 ^ 23 then sign ++ (0#8) ++ BitVec.ofNat 23 m
  else sign ++ BitVec.ofNat 8 (e + 150).toNat ++ BitVec.ofNat 23 m

/-! ### Sequences -/

/-- Element `j` of a sequence extended with zeros on both sides (R10). -/
def zext (x : List Rat) (j : Int) : Rat :=
  if j < 0 then 0 else x.getD j.toNat 0

/-- `Σ` over a list of rationals. -/
def sumR (x : List Rat) : Rat := x.foldl (· + ·) 0

/-- Insert into an ascending list. -/
def insertAsc (v : Rat) : List Rat → List Rat
  | [] => [v]
  | u :: us => if v ≤ u then v :: u :: us else u :: insertAsc v us

/-- Sort ascending. -/
def sortAsc : List Rat → List Rat
  | [] => []
  | v :: vs => insertAsc v (sortAsc vs)

/-- The median of an odd number of reals (R23): position `(W+1)/2` from 1 of the sorted multiset. -/
def median (w : List Rat) : Rat := (sortAsc w).getD (w.length / 2) 0

/-- `Same(x, h)[n]` (R24): `Σ h[k] · x[n + M - k]` with `M = (L-1)/2` and `x` zero-extended. -/
def sameAt (x h : List Rat) (n : Nat) : Rat :=
  sumR ((List.range h.length).map fun k =>
    h.getD k 0 * zext x ((n : Int) + (((h.length - 1) / 2 : Nat) : Int) - (k : Int)))

/-- `Same(x, h)` (R24): a sequence of the length of `x`. -/
def same (x h : List Rat) : List Rat := (List.range x.length).map (sameAt x h)

/-- The smallest element of a non-empty list. -/
def minR (x : List Rat) : Rat := x.tail.foldl (fun a b => if b < a then b else a) (x.headD 0)

/-- The largest element of a non-empty list. -/
def maxR (x : List Rat) : Rat := x.tail.foldl (fun a b => if a < b then b else a) (x.headD 0)

/-- A linear operation on a signal: on a COMPLEX one, on the real parts and on the imaginary parts separately (R24,
60_exceptions.md R288, 92_eei_decisions.md D30). `none` is an overflow in either part. -/
def mapParts (f : List Rat → Option (List Rat)) : Samples → Option Samples
  | .real xs => (f xs).map .real
  | .complex zs =>
    match f (zs.map (·.1)), f (zs.map (·.2)) with
    | some re, some im => some (.complex (re.zip im))
    | _, _ => none

end Sys2Proof.Machine
end

