-- ==== Sys2Proof/Machine/ExactReal.lean ====
section
/-! DEFINITION. The exact reals a command forms before its one rounding (00_scope.md R17, R20 to R22, R25 to R29), held as
what they are: the root of a rational, the modulus of a sum of roots of unity, a quotient of sums of `q · sinc(t) · wK(v)`.
No intermediate value is rounded. `rnd` of such a real is found from enclosures of it, narrowed until both ends round
alike; a real that lies on a boundary between two elements of `F` is recognised as such by exact algebra (assumption
log 5). -/

namespace Sys2Proof.Machine

/-! ### Approximations to any precision

A real `y` is approximated to `p` bits by an integer `Y` with `|y - Y / 2^p| < 2 / 2^p`. -/

/-- `2^w · Σ_{i ≥ j} ± t_i / (2i+1)`, with `t_j` given and `t_{i+1} = t_i / k²`, the sign alternating from plus. -/
def arctanSeries (k : Nat) : (fuel j t : Nat) → Int
  | 0, _, _ => 0
  | fuel + 1, j, t =>
    if t = 0 then 0 else ((t / (2 * j + 1) : Nat) : Int) - arctanSeries k fuel (j + 1) (t / (k * k))

/-- `π · 2^w` by `π = 16 arctan(1/5) - 4 arctan(1/239)`, less than `16 w` away. -/
def piWork (w : Nat) : Nat :=
  (16 * arctanSeries 5 w 0 (2 ^ w / 5) - 4 * arctanSeries 239 w 0 (2 ^ w / 239)).toNat

/-- The terms of `sin x` from the `j`-th on, `w` bits: `x2` is `x²`, `t` the magnitude of the `j`-th term. -/
def sinSeries (w x2 : Nat) : (fuel j t : Nat) → Int
  | 0, _, _ => 0
  | fuel + 1, j, t =>
    if t = 0 then 0
    else (t : Int) - sinSeries w x2 fuel (j + 1) (t * x2 / 2 ^ w / ((2 * j + 2) * (2 * j + 3)))

/-- `sin(π r)` to `p` bits for `0 ≤ r ≤ 1/2`. -/
def sinQuarter (p : Nat) (r : Rat) : Int :=
  let w := p + 64
  let x := (r.num * (piWork w : Int) / (r.den : Int)).toNat
  sinSeries w (x * x / 2 ^ w) w 0 x / 2 ^ 64

/-- `sin(π r)` to `p` bits for any rational `r`, reduced exactly to the first quarter turn. -/
def sinPi (p : Nat) (r : Rat) : Int :=
  let a := r - 2 * ((r / 2).floor : Rat)
  let b := if a < 1 then a else a - 1
  let c := if b ≤ mkRat 1 2 then b else 1 - b
  if a < 1 then sinQuarter p c else -sinQuarter p c

/-- `cos(π r)` to `p` bits. -/
def cosPi (p : Nat) (r : Rat) : Int := sinPi p (r + mkRat 1 2)

/-- `sinc(t)` (R20) to `p` bits. -/
def sincApprox (p : Nat) (t : Rat) : Int :=
  if t = 0 then 2 ^ p
  else
    let u := rabs t
    let w := p + 64 + Nat.log2 (1 / u).ceil.toNat
    sinPi w u * (2 ^ p * u.den : Nat) / (piWork w * u.num.natAbs : Nat)

/-- `floor(β · 2^p)` for the `β` of `KaiserBeta.real`. -/
def betaFloor : (p : Nat) → Nat
  | 0 => Config.betaWhole
  | p + 1 => 2 * betaFloor p + (Config.betaDigit p).toNat

/-- A rational at most `β` and less than `1 / 2^p` away from it. -/
def betaApprox (p : Nat) : Config.KaiserBeta → Rat
  | .rat v => v
  | .real => mkRat (betaFloor p) (2 ^ p)

/-- The terms of `I0(u)` (R21) from the `j`-th on, `w` bits: `y` is `u²/4`, `t` the `j`-th term `(y^j)/(j!)²`. -/
def i0Series (w y : Nat) : (fuel j t : Nat) → Nat
  | 0, _, _ => 0
  | fuel + 1, j, t =>
    if t = 0 then 0
    else t + i0Series w y fuel (j + 1) (t * y / 2 ^ w / ((j + 1) * (j + 1)))

/-- `I0(u) · 2^w` (R21), from `u²`, for a `u` of at most `bound`: past `bound` the terms fall by a factor of four. -/
def i0Work (w bound : Nat) (uSquared : Rat) : Nat :=
  i0Series w (uSquared.num * (2 ^ w : Nat) / ((4 * uSquared.den : Nat) : Int)).toNat (2 * bound + w + 8) 0 (2 ^ w)

/-- `wK(v)` (R22) to `p` bits. -/
def kaiserApprox (p : Nat) (beta : Config.KaiserBeta) (v : Rat) : Int :=
  if 1 < rabs v then 0
  else
    let b := betaApprox (p + 8) beta
    let bound := b.ceil.toNat
    let w := p + 64 + 2 * Nat.log2 (bound + 1)
    ((i0Work w bound (b * b * (1 - v * v)) * 2 ^ p / i0Work w bound (b * b) : Nat) : Int)

/-! ### Sums of `q · sinc(t) · wK(v)` (R27 to R29) -/

/-- The real `coef · sinc(arg) · wK(pos)`, with `|pos| ≤ 1`. -/
structure KernelTerm where
  coef : Rat
  arg : Rat
  pos : Rat
deriving DecidableEq, Repr

/-- The real `const + Σ terms`. -/
structure Combination where
  const : Rat
  terms : List KernelTerm
deriving DecidableEq, Repr

/-- A rational. -/
def Combination.ofRat (v : Rat) : Combination := { const := v, terms := [] }

/-- The real `q · sinc(t) · wK(v)`, a rational where it is one: 0 for `q = 0`, `|v| > 1` or a whole `t ≠ 0`; `q` for
`t = v = 0`. -/
def Combination.term (q t v : Rat) : Combination :=
  if q = 0 ∨ 1 < rabs v ∨ (t ≠ 0 ∧ t.den = 1) then .ofRat 0
  else if t = 0 ∧ v = 0 then .ofRat q
  else { const := 0, terms := [{ coef := q, arg := t, pos := v }] }

/-- The sum of two. -/
def Combination.add (a b : Combination) : Combination :=
  { const := a.const + b.const, terms := a.terms ++ b.terms }

/-- A rational multiple. -/
def Combination.scale (q : Rat) (a : Combination) : Combination :=
  if q = 0 then .ofRat 0
  else { const := q * a.const, terms := a.terms.map fun u => { u with coef := q * u.coef } }

/-- The sum of a list. -/
def Combination.sum (l : List Combination) : Combination := l.foldr Combination.add (.ofRat 0)

/-- An interval that contains the real, from `p`-bit approximations: each product of two of them is less than `8 / 2^p`
off. -/
def Combination.enclose (beta : Config.KaiserBeta) (p : Nat) (a : Combination) : Rat × Rat :=
  let mid := a.const + sumR (a.terms.map fun u =>
    u.coef * mkRat (sincApprox p u.arg * kaiserApprox p beta u.pos) (2 ^ (2 * p)))
  let err := mkRat 8 (2 ^ p) * sumR (a.terms.map fun u => rabs u.coef)
  (mid - err, mid + err)

/-- An interval that contains the quotient of reals in two intervals, if the second leaves out 0. -/
def encloseQuotient (a b : Rat × Rat) : Option (Rat × Rat) :=
  if 0 < b.1 then some (min (a.1 / b.1) (a.1 / b.2), max (a.2 / b.1) (a.2 / b.2))
  else if b.2 < 0 then some (min (a.2 / b.1) (a.2 / b.2), max (a.1 / b.1) (a.1 / b.2))
  else none

/-! ### Sums of roots of unity

A list of pairs `(e, c)` stands for `Σ c · ζ^e` with `ζ = exp(2πi/M)`. -/

/-- Add `c · ζ^e` to a sum with at most one pair for each exponent. -/
def addPower (e : Nat) (c : Rat) : List (Nat × Rat) → List (Nat × Rat)
  | [] => [(e, c)]
  | (e', c') :: l => if e = e' then (e, c + c') :: l else (e', c') :: addPower e c l

/-- The pairs collected by exponent modulo `M`. -/
def collect (M : Nat) (l : List (Nat × Rat)) : List (Nat × Rat) :=
  l.foldl (fun acc u => addPower (u.1 % M) u.2 acc) []

/-- The prime factors of `n`, from the trial divisor `d` on. -/
def primesFrom : (fuel d n : Nat) → List Nat
  | 0, _, _ => []
  | fuel + 1, d, n =>
    if n ≤ 1 then []
    else if n < d * d then [n]
    else if n % d = 0 then
      match primesFrom fuel d (n / d) with
      | [] => [d]
      | q :: qs => if q = d then q :: qs else d :: q :: qs
    else primesFrom fuel (d + 1) n

/-- The prime factors of `M`. -/
def primeFactors (M : Nat) : List Nat := primesFrom (isqrt M + Nat.log2 M + 2) 2 M

/-- Times `ζ^s - 1`. -/
def timesPowerMinusOne (M s : Nat) (l : List (Nat × Rat)) : List (Nat × Rat) :=
  collect M (l.map (fun u => (u.1 + s, u.2)) ++ l.map fun u => (u.1, -u.2))

/-- `Σ c · ζ^e = 0`, decided exactly. `Π (X^(M/r) - 1)` over the primes `r` of `M` is 0 at every `M`-th root of unity but
the primitive ones; so the sum is 0 exactly when the product of it with that is 0 as a polynomial modulo `X^M - 1`. -/
def rootsSumVanishes (M : Nat) (l : List (Nat × Rat)) : Bool :=
  ((primeFactors M).foldl (fun acc r => timesPowerMinusOne M (M / r) acc) (collect M l)).all fun u => decide (u.2 = 0)

/-- `Σ c · sin(π t) = 0`, decided exactly: `sin(π t)` is `(ζ^a - ζ^(-a)) / 2i` for an `M`-th root `ζ`, `a = t M / 2`. -/
def sineSumVanishes (l : List (Rat × Rat)) : Bool :=
  let half := l.foldl (fun acc u => Nat.lcm acc u.2.den) 1
  let power : Rat → Nat := fun t => ((t.num * (half / t.den : Nat)) % ((2 * half : Nat) : Int)).toNat
  rootsSumVanishes (2 * half) (l.flatMap fun u => [(power u.2, u.1), (2 * half - power u.2, -u.1)])

/-- What decides `wK(v)`: `|v|`, and nothing when `β = 0`. -/
def windowKey (beta : Config.KaiserBeta) (v : Rat) : Rat :=
  if beta = .rat 0 then 0 else rabs v

/-- The part of a sum with one value of the window is 0: its rational multiple, and its multiple of `1/π`. -/
def Combination.partVanishes (beta : Config.KaiserBeta) (a : Combination) (key : Rat) : Bool :=
  let part := a.terms.filter fun u => decide (windowKey beta u.pos = key)
  let still := sumR ((part.filter fun u => decide (u.arg = 0)).map (·.coef))
  decide ((if key = 0 then a.const else 0) + still = 0)
    && sineSumVanishes ((part.filter fun u => decide (u.arg ≠ 0)).map fun u => (u.coef / u.arg, u.arg))

/-- The sum is 0 because the parts of it with different values of the window, and of each the rational one and the one
with `1/π`, are 0 one by one. -/
def Combination.vanishes (beta : Config.KaiserBeta) (a : Combination) : Bool :=
  (0 :: a.terms.map fun u => windowKey beta u.pos).all (a.partVanishes beta)

/-! ### The discrete analytic signal (R26) -/

/-- `H[k]` of R26. -/
def hilbertWeight (N k : Nat) : Rat :=
  if k = 0 then 1
  else if N % 2 = 0 ∧ k = N / 2 then 1
  else if 1 ≤ k ∧ k ≤ (N + 1) / 2 - 1 then 2
  else 0

/-- `a[n]` of R26 as a sum of `N`-th roots of unity: `(1/N) Σ_k Σ_m H[k] · x[m] · ζ^(k(n-m))`. -/
def analyticSum (x : List Rat) (n : Nat) : List (Nat × Rat) :=
  let N := x.length
  (List.range N).flatMap fun k =>
    x.zipIdx.map fun (v, m) => (k * (n + (N - m)) % N, hilbertWeight N k * v / N)

/-- `|Σ c · ζ^e|²` as such a sum. -/
def squaredModulus (N : Nat) (l : List (Nat × Rat)) : List (Nat × Rat) :=
  let l := collect N l
  l.flatMap fun u => l.map fun v => (u.1 + (N - v.1), u.2 * v.2)

/-- `cos(2π j/N)` and `sin(2π j/N)` to `p` bits, for `0 ≤ j < N`. -/
def twiddles (p N : Nat) : List (Int × Int) :=
  (List.range N).map fun j => (cosPi p (2 * mkRat j N), sinPi p (2 * mkRat j N))

/-- `Σ_k H[k] · ζ^(kj)` to `p` bits, for `0 ≤ j < N`: what `N · a[n]` has beside `x[m]`, at `j = n - m` modulo `N`. -/
def analyticKernel (p N : Nat) : List (Rat × Rat) :=
  let tw := twiddles p N
  (List.range N).map fun j =>
    let terms := (List.range N).map fun k =>
      let w := tw.getD (k * j % N) (0, 0)
      (hilbertWeight N k * w.1, hilbertWeight N k * w.2)
    (sumR (terms.map (·.1)), sumR (terms.map (·.2)))

/-- An interval that contains `|a[n]|²`: each part of `a[n]` is within `2 · Σ|x| / 2^p`. -/
def analyticEnclose (p : Nat) (x : List Rat) (n : Nat) : Rat × Rat :=
  let N := x.length
  let ker := analyticKernel p N
  let terms := x.zipIdx.map fun (v, m) =>
    let w := ker.getD ((n + (N - m)) % N) (0, 0)
    (v * w.1, v * w.2)
  let re := sumR (terms.map (·.1)) * mkRat 1 (N * 2 ^ p)
  let im := sumR (terms.map (·.2)) * mkRat 1 (N * 2 ^ p)
  let size := sumR (x.map rabs)
  let off := mkRat 2 (2 ^ p) * size
  let err := 4 * size * off + 4 * off * off
  let mid := re * re + im * im
  (if mid < err then 0 else mid - err, mid + err)

/-- So many doublings of the precision that an `|a[n]|²` which is not the square of a boundary is told from it: the
difference, times a known integer, is an algebraic integer, so the product of its at most `N` conjugates, each of known
size, is at least 1. -/
def analyticFuel (x : List Rat) : Nat :=
  let bits := (x.map fun v => Nat.log2 v.num.natAbs + Nat.log2 v.den + 2).sum
  Nat.log2 ((x.length + 1) * (8 * bits + 4 * Nat.log2 (x.length + 1) + 1024)) + 1

/-! ### Rounding -/

/-- The boundary between two neighbours of `F`: their midpoint, or the bound of R15 beside an overflow. -/
def boundary : (lo hi : Option Rat) → Rat
  | some a, some b => (a + b) / 2
  | some _, none => overflowBound
  | none, some _ => -overflowBound
  | none, none => 0

/-- Every real in the interval is rounded alike, `round` being monotone. -/
def sameCell (round : Rat → Option Rat) (lo hi : Rat) : Bool :=
  decide (round lo = round hi) && ((round lo).isSome || decide (0 < lo) || decide (hi < 0))

/-- The rounding of a real of which `enclose p` is an enclosure and `isAt m` says that its rounding is that of the
boundary `m`: the precision is doubled until it is decided. -/
def settle (enclose : Nat → Option (Rat × Rat)) (round : Rat → Option Rat) (isAt : Rat → Bool) :
    (fuel p : Nat) → Option Rat
  | 0, p =>
    match enclose p with
    | none => round (Config.undecidedValue 0 0)
    | some (lo, hi) => round (max lo (min hi (Config.undecidedValue lo hi)))
  | fuel + 1, p =>
    match enclose p with
    | none => settle enclose round isAt fuel (2 * p)
    | some (lo, hi) =>
      if sameCell round lo hi then round lo
      else if isAt (boundary (round lo) (round hi)) then rndRat (boundary (round lo) (round hi))
      else settle enclose round isAt fuel (2 * p)

/-- The exact reals a command forms before its one rounding (R17). -/
inductive Exact where
  /-- a rational -/
  | rat (v : Rat)
  /-- the non-negative root of a rational (R25) -/
  | root (q : Rat)
  /-- `|a[n]|`, the modulus of the discrete analytic signal of `x` (R26) -/
  | analytic (x : List Rat) (n : Nat)
  /-- the quotient of two sums (R27 to R29) -/
  | ratio (beta : Config.KaiserBeta) (num den : Combination)
deriving DecidableEq, Repr

/-- `rnd(|a[n]|)` of R26. The fuel is enough, so no free value is reached. -/
def rndAnalytic (x : List Rat) (n : Nat) : Option Rat :=
  settle (fun p => some (analyticEnclose p x n)) rndRoot
    (fun m => rootsSumVanishes x.length ((0, -(m * m)) :: squaredModulus x.length (analyticSum x n))) (analyticFuel x) 128

/-- `rnd` of a quotient of two sums. -/
def rndRatio (beta : Config.KaiserBeta) (num den : Combination) : Option Rat :=
  if num.terms = [] ∧ den.terms = [] then rndRat (num.const / den.const)
  else
    settle (fun p => encloseQuotient (num.enclose beta p) (den.enclose beta p)) rndRat
      (fun m => (num.add (den.scale (-m))).vanishes beta) 64 128

/-- `rnd` (R15) of an exact value; `none` is `NumericRangeError` / `OVERFLOW`. -/
def Exact.rnd : Exact → Option Rat
  | .rat v => rndRat v
  | .root q => rndRoot q
  | .analytic x n => rndAnalytic x n
  | .ratio beta num den => rndRatio beta num den

/-- `NUM.mag(re, im) = sqrt(re² + im²)` (R25). -/
def mag (z : Rat × Rat) : Exact := .root (z.1 * z.1 + z.2 * z.2)

/-- `rnd` of every element of a result; one overflow fails the whole (R17). -/
def rndAll : List Exact → Option (List Rat)
  | [] => some []
  | v :: vs =>
    match v.rnd, rndAll vs with
    | some r, some rs => some (r :: rs)
    | _, _ => none

/-- `rnd` of every element of a list of rationals. -/
def rndRats (vs : List Rat) : Option (List Rat) := rndAll (vs.map .rat)

end Sys2Proof.Machine
end

