-- ==== Sys2Proof/Machine/Reference.lean ====
section
/-! DEFINITION. The reference instances of the numeric primitives (00_scope.md R26 to R29): the formulas of the spec, as
exact reals. -/

namespace Sys2Proof.Machine

/-- `NUM.henv(x)[n] = |a[n]|` for every `n`, the reference instance (R26). -/
def henvRef (x : List Rat) : List Exact := (List.range x.length).map (.analytic x)

/-- `c[k] = ideal(d) · win(d)` of `NUM.bpdesign`, the reference instance (R27), with `M = (taps-1)/2` and `d = k - M`;
`win(d) = wK(d/M)`, which is 1 for `M = 0` as well, since `d/M` is 0 there. -/
def bpdesignRef (low high fs : Rat) (taps k : Nat) : Combination :=
  let M := (taps - 1) / 2
  let d : Rat := ((k : Int) - (M : Int) : Int)
  let v : Rat := if M = 0 then 0 else d / M
  (Combination.term (2 * high / fs) (2 * high * d / fs) v).add (.term (-(2 * low / fs)) (2 * low * d / fs) v)

/-- `u[k]` of R28, with `Ma = AA_ZC·q`. -/
def antialiasRaw (aaZc q k : Nat) : Combination :=
  let Ma := aaZc * q
  let d : Rat := ((k : Int) - (Ma : Int) : Int)
  .term (1 / q) (d / q) (d / Ma)

/-- `g(u)` of R29, with `c = min(1, pr/fs)` and `Z = RSP_ZC`: 0 for `|c·u| > Z`, where `wK` is. -/
def resampleKernel (rspZc : Nat) (c u : Rat) : Combination :=
  .term c (c * u) (c * u / rspZc)

/-- `y[m]` of `NUM.resample`, the reference instance (R29). -/
def resampleRef (rspZc : Nat) (x : List Rat) (fs pr : Rat) (m : Nat) : Combination :=
  let c := if pr < fs then pr / fs else 1
  let t := (m : Rat) * fs / pr
  .sum (x.zipIdx.map fun (v, k) => (resampleKernel rspZc c (t - k)).scale v)

end Sys2Proof.Machine
end

