-- ==== Sys2Proof/Machine/Num.lean ====
section
/-! DEFINITION. The record `NUM` (00_scope.md R30) of a block with given parameters. Every member is shaped so that the
properties of R30's table hold of both instances, the reference one and the uninterpreted one. -/

namespace Sys2Proof.Machine

/-- A symmetric sequence of `n` elements from its first half. -/
def mirrored {α : Type} (n : Nat) (f : Nat → α) : List α :=
  (List.range n).map fun k => f (min k (n - 1 - k))

/-- `NUM.henv(x)` (R26, R30): one non-negative value per element of `x`. -/
def numHenv (p : Config.Params) (x : List Rat) : List Exact :=
  match p.num with
  | .reference => henvRef x
  | .implementation => (List.range x.length).map fun n => .rat (rabs (Config.henvValue x n))

/-- `NUM.bpdesign(low, high, fs, taps)` (R27, R30): `taps` reals, symmetric. For `taps = 1` R211 (43_fir_bandpass.md) and
the test vectors V36 and P5 give every block the coefficient `2·(high - low)/fs`, while R30's table, on which alone a claim
about every instance may rest, lists no such property. The model follows R30 and leaves that coefficient of the
uninterpreted instance free (DESIGN CHOICE, assumption log 17); the reference instance has R211's. -/
def numBpdesign (p : Config.Params) (low high fs : Rat) (taps : Nat) : List Exact :=
  match p.num with
  | .reference => mirrored taps fun k => .ratio p.kaiserBeta (bpdesignRef low high fs taps k) (.ofRat 1)
  | .implementation => mirrored taps fun k => .rat (Config.bpdesignValue p.kaiserBeta low high fs taps k)

/-- Filter coefficients with a common divisor: `h[k] = u[k] / total`. -/
structure Lowpass where
  u : List Combination
  total : Combination
deriving DecidableEq, Repr

/-- `NUM.antialias(q)` (R28, R30): an odd number of reals, symmetric; the reference instance is divided by its own sum. -/
def numAntialias (p : Config.Params) (q : Nat) : Lowpass :=
  match p.num with
  | .reference =>
    let u := mirrored (2 * p.aaZc * q + 1) (antialiasRaw p.aaZc q)
    { u := u, total := .sum u }
  | .implementation =>
    { u := mirrored (2 * Config.antialiasHalf p.kaiserBeta p.aaZc q + 1) fun k =>
        .ofRat (Config.antialiasValue p.kaiserBeta p.aaZc q k)
      total := .ofRat 1 }

/-- `Same(x, h)[n]` (R24) for such coefficients: `(Σ u[k] · x[n + M - k]) / total` with `M = (L-1)/2`. -/
def sameLowpass (p : Config.Params) (x : List Rat) (h : Lowpass) (n : Nat) : Exact :=
  let M := (h.u.length - 1) / 2
  .ratio p.kaiserBeta
    (.sum (h.u.zipIdx.map fun (c, k) => c.scale (zext x ((n : Int) + (M : Int) - (k : Int))))) h.total

/-- `NUM.resample(x, fs, pr, Mout)` (R29, R30): `Mout` reals. -/
def numResample (p : Config.Params) (x : List Rat) (fs pr : Rat) (mout : Nat) : List Exact :=
  match p.num with
  | .reference =>
    (List.range mout).map fun m => .ratio p.kaiserBeta (resampleRef p.rspZc x fs pr m) (.ofRat 1)
  | .implementation =>
    (List.range mout).map fun m => .rat (Config.resampleValue p.kaiserBeta p.rspZc x fs pr mout m)

end Sys2Proof.Machine
end

