-- ==== Sys2Proof/WellFormed.lean ====
section
/-! DEFINITION. The checks on a command: the one the encoding makes (a reserved channel count), and the one the block's
parameters make (a slot that exists). -/

namespace Sys2Proof

/-- A command that some command word stands for: every one but `FORMIMG` with channel count 0, whose encoding is
reserved (30_encoding.md R143, R145, R146). -/
def Instr.wf : Instr → Bool
  | .nop => true
  | .bopen _ _ => true
  | .bclose => true
  | .bfree _ => true
  | .demod _ _ => true
  | .dcrem _ _ => true
  | .decim _ _ => true
  | .resamp _ _ => true
  | .bpdesign _ => true
  | .bpapply _ _ => true
  | .agc _ _ => true
  | .extract _ _ _ => true
  | .formimg _ _ c => c != 0#4
  | .combine _ _ _ => true

/-- Every slot field the command uses names a slot of a block with `nslot` slots (R141, R145: `BAD_SLOT` otherwise). -/
def Instr.slotsExist (nslot : Nat) (i : Instr) : Bool :=
  i.slotFields.all fun x => decide (x.toNat < nslot)

end Sys2Proof
end

