-- ==== Sys2Proof/Decode.lean ====
section
/-! DEFINITION. The command word: fields (30_encoding.md R141), the opcode map with its masks (R144), the decoder (R145)
and, after it, the encoder from the same table. -/

namespace Sys2Proof

/-- `w[31:24]` (R141). -/
def opcField (w : Word) : BitVec 8 := w.extractLsb' 24 8
/-- `w[23:20]` (R141). -/
def dstField (w : Word) : SlotIx := w.extractLsb' 20 4
/-- `w[19:16]` (R141). -/
def srcaField (w : Word) : SlotIx := w.extractLsb' 16 4
/-- `w[15:12]` (R141). -/
def srcbField (w : Word) : SlotIx := w.extractLsb' 12 4
/-- `w[11:0]` (R141). -/
def immField (w : Word) : BitVec 12 := w.extractLsb' 0 12

/-- The column `OPC` of R144. -/
def Opcode.code : Opcode → BitVec 8
  | .nop => 0x00#8
  | .bopen => 0x01#8
  | .bclose => 0x02#8
  | .bfree => 0x03#8
  | .demod => 0x10#8
  | .dcrem => 0x11#8
  | .decim => 0x20#8
  | .resamp => 0x21#8
  | .bpdesign => 0x30#8
  | .bpapply => 0x31#8
  | .agc => 0x40#8
  | .extract => 0x50#8
  | .formimg => 0x60#8
  | .combine => 0x61#8

/-- The rows of R144, in the table's order. -/
def Opcode.all : List Opcode :=
  [.nop, .bopen, .bclose, .bfree, .demod, .dcrem, .decim, .resamp, .bpdesign, .bpapply, .agc, .extract, .formimg,
    .combine]

/-- The column `mask` of R144: the operation code and the must-be-zero bits of the row's format (R142). -/
def Opcode.mask : Opcode → Word
  | .nop => 0xFFFFFFFF#32
  | .bopen => 0xFF0FFFFE#32
  | .bclose => 0xFFFFFFFF#32
  | .bfree => 0xFF0FFFFF#32
  | .demod => 0xFF00FFFF#32
  | .dcrem => 0xFF00FFFF#32
  | .decim => 0xFF00FFFF#32
  | .resamp => 0xFF00FFFF#32
  | .bpdesign => 0xFFF0FFFF#32
  | .bpapply => 0xFF00FFFF#32
  | .agc => 0xFF00FFFF#32
  | .extract => 0xFF00FFFC#32
  | .formimg => 0xFF00FFF0#32
  | .combine => 0xFF000FFF#32

/-- The column `match` of R144. -/
def Opcode.matchWord : Opcode → Word
  | .nop => 0x00000000#32
  | .bopen => 0x01000000#32
  | .bclose => 0x02000000#32
  | .bfree => 0x03000000#32
  | .demod => 0x10000000#32
  | .dcrem => 0x11000000#32
  | .decim => 0x20000000#32
  | .resamp => 0x21000000#32
  | .bpdesign => 0x30000000#32
  | .bpapply => 0x31000000#32
  | .agc => 0x40000000#32
  | .extract => 0x50000000#32
  | .formimg => 0x60000000#32
  | .combine => 0x61000000#32

/-- The row whose `OPC` is the given code, if there is one (R145, first sentence). -/
def Opcode.ofCode (c : BitVec 8) : Option Opcode :=
  Opcode.all.find? fun o => o.code == c

/-- The kind a `BOPEN` word's `IMM[0]` names (R143). -/
def kindOfBit (b : BitVec 1) : SigKind :=
  if b = 1#1 then .complex else .real

/-- `IMM[0]` of a `BOPEN` word (R143). -/
def SigKind.bit : SigKind → BitVec 1
  | .real => 0#1
  | .complex => 1#1

/-- The command of a word whose row is already found: its fields read as R141 and R143 say. -/
def Opcode.operands (o : Opcode) (w : Word) : Instr :=
  match o with
  | .nop => .nop
  | .bopen => .bopen (dstField w) (kindOfBit ((immField w).extractLsb' 0 1))
  | .bclose => .bclose
  | .bfree => .bfree (dstField w)
  | .demod => .demod (dstField w) (srcaField w)
  | .dcrem => .dcrem (dstField w) (srcaField w)
  | .decim => .decim (dstField w) (srcaField w)
  | .resamp => .resamp (dstField w) (srcaField w)
  | .bpdesign => .bpdesign (srcaField w)
  | .bpapply => .bpapply (dstField w) (srcaField w)
  | .agc => .agc (dstField w) (srcaField w)
  | .extract => .extract (dstField w) (srcaField w) ((immField w).extractLsb' 0 2)
  | .formimg => .formimg (dstField w) (srcaField w) ((immField w).extractLsb' 0 4)
  | .combine => .combine (dstField w) (srcaField w) (srcbField w)

/-- Why a word is no command: the first two reasons of R145. The third, `BAD_SLOT`, depends on `NSLOT` and is checked by
every meaning (`Machine.runCommand`). -/
inductive DecodeError where
  /-- `RESERVED_OPCODE`: no row has the word's `OPC` -/
  | reservedOpcode
  /-- `RESERVED_FIELD`: a must-be-zero bit is 1, or `FORMIMG` has channel count 0 -/
  | reservedField
deriving DecidableEq, Repr

/-- Decoding (R145), total on every word. -/
def decode (w : Word) : Except DecodeError Instr :=
  match Opcode.ofCode (opcField w) with
  | none => .error .reservedOpcode
  | some o =>
    if w &&& o.mask = o.matchWord then
      if (o.operands w).wf then .ok (o.operands w) else .error .reservedField
    else .error .reservedField

/-- The word with the given fields (R141). -/
def commandWord (o : Opcode) (dst srca srcb : SlotIx) (imm : BitVec 12) : Word :=
  o.code ++ dst ++ srca ++ srcb ++ imm

/-- The word of a command (R141 to R144, and R148's right column): its fields in their places, every field its format
does not use zero. -/
def encode : Instr → Word
  | .nop => commandWord .nop 0 0 0 0
  | .bopen d k => commandWord .bopen d 0 0 (k.bit.setWidth 12)
  | .bclose => commandWord .bclose 0 0 0 0
  | .bfree d => commandWord .bfree d 0 0 0
  | .demod d a => commandWord .demod d a 0 0
  | .dcrem d a => commandWord .dcrem d a 0 0
  | .decim d a => commandWord .decim d a 0 0
  | .resamp d a => commandWord .resamp d a 0 0
  | .bpdesign a => commandWord .bpdesign 0 a 0 0
  | .bpapply d a => commandWord .bpapply d a 0 0
  | .agc d a => commandWord .agc d a 0 0
  | .extract d a ch => commandWord .extract d a 0 (ch.setWidth 12)
  | .formimg d a c => commandWord .formimg d a 0 (c.setWidth 12)
  | .combine d a b => commandWord .combine d a b 0

/-- The command the decoder reads from a word whose bits are `w` (bit 0 the least significant), the bits from `nbits` up
taken as 0; `none` where it refuses the word. -/
def decodeTableWord (nbits w : Nat) : Option Instr :=
  match decode (BitVec.ofNat 32 (w % 2 ^ nbits)) with
  | .ok i => some i
  | .error _ => none

end Sys2Proof
end

