-- ==== Sys2Proof/Machine/Flags.lean ====
section
/-! DEFINITION. The status registers (10_state.md R58, R59): the codes of classes, reasons and stages, the words the host
reads, and every operation that writes `ERR`, `STICKY`, `DEGEN` or `ERRINFO`. -/

namespace Sys2Proof.Machine

/-- The value of a class in `STATUS.ERR` (60_exceptions.md R281). -/
def ErrClass.code : ErrClass → BitVec 3
  | .ok => 0#3
  | .configuration => 1#3
  | .insufficientData => 2#3
  | .numericRange => 3#3
  | .illegalCommand => 4#3
  | .capacity => 5#3

/-- The reason codes (R283). -/
def Reason.code : Reason → BitVec 8
  | .none => 0#8
  | .rateNonpos => 1#8
  | .bandOrder => 2#8
  | .nyquist => 3#8
  | .taps => 4#8
  | .decimLt1 => 5#8
  | .rateMismatch => 6#8
  | .shapeMismatch => 7#8
  | .lineWidth => 8#8
  | .cfgNonfinite => 9#8
  | .shortFilter => 16#8
  | .shortDecim => 17#8
  | .shortLine => 18#8
  | .oddWords => 19#8
  | .nonfiniteInput => 24#8
  | .overflow => 25#8
  | .reservedOpcode => 32#8
  | .reservedField => 33#8
  | .badSlot => 34#8
  | .slotState => 35#8
  | .kind => 36#8
  | .noFilter => 37#8
  | .portClosed => 38#8
  | .capacity => 40#8

/-- The class of a reason, by its range (R283). -/
def Reason.errClass : Reason → ErrClass
  | .none => .ok
  | .rateNonpos => .configuration
  | .bandOrder => .configuration
  | .nyquist => .configuration
  | .taps => .configuration
  | .decimLt1 => .configuration
  | .rateMismatch => .configuration
  | .shapeMismatch => .configuration
  | .lineWidth => .configuration
  | .cfgNonfinite => .configuration
  | .shortFilter => .insufficientData
  | .shortDecim => .insufficientData
  | .shortLine => .insufficientData
  | .oddWords => .insufficientData
  | .nonfiniteInput => .numericRange
  | .overflow => .numericRange
  | .reservedOpcode => .illegalCommand
  | .reservedField => .illegalCommand
  | .badSlot => .illegalCommand
  | .slotState => .illegalCommand
  | .kind => .illegalCommand
  | .noFilter => .illegalCommand
  | .portClosed => .illegalCommand
  | .capacity => .capacity

/-- The stage codes (R285). -/
def Stage.code : Stage → BitVec 4
  | .decode => 0#4
  | .buffer => 1#4
  | .env => 2#4
  | .decim => 3#4
  | .bpdesign => 4#4
  | .bpapply => 5#4
  | .agc => 6#4
  | .dcrem => 7#4
  | .resamp => 8#4
  | .formimg => 9#4
  | .combine => 10#4

/-- The word `STATUS` reads (R58): `ERR` 2:0, `STICKY` 4, `DEGEN` 8, `OPEN` 12, `FSVALID` 16, the other bits 0. `OPEN` and
`FSVALID` are copies of `OPENV` and `FSPEC.valid`. -/
def statusWord (s : State) : Word :=
  0#15 ++ BitVec.ofBool s.fspec.valid ++ 0#3 ++ BitVec.ofBool s.openV ++ 0#3 ++ BitVec.ofBool s.degen ++ 0#3
    ++ BitVec.ofBool s.sticky ++ 0#1 ++ s.err.code

/-- The word `ERRINFO` reads (R59): `OPC` 7:0, `STAGE` 11:8, `REASON` 23:16, the other bits 0. -/
def errInfoWord (s : State) : Word :=
  0#8 ++ s.errInfo.reason.code ++ 0#4 ++ s.errInfo.stage.code ++ s.errInfo.opc

/-- A command has succeeded: `STATUS.ERR <- 0`; `STICKY`, `DEGEN` and `ERRINFO` keep their values
(40_buffer_commands.md R170). -/
def recordSuccess (s : State) : State := { s with err := .ok }

/-- The report of a failure (60_exceptions.md R284): `STATUS.ERR <- class`, `STATUS.STICKY <- 1`,
`ERRINFO <- {OPC, STAGE, REASON}`. -/
def recordFailure (opc : BitVec 8) (stage : Stage) (reason : Reason) (s : State) : State :=
  { s with err := reason.errClass, sticky := true, errInfo := { opc := opc, stage := stage, reason := reason } }

/-- `STATUS.DEGEN <- 1` (47_raster_formatter.md R264). -/
def raiseDegen (s : State) : State := { s with degen := true }

/-- A host write to `STATUS` (R58): a 1 in bit 4 clears `STICKY`, a 1 in bit 8 clears `DEGEN`, a 0 leaves either, and no
other bit does anything. It is the host's acknowledgement of a failure, the nearest thing to a return (60_exceptions.md
R292). -/
def acknowledge (w : Word) (s : State) : State :=
  { s with sticky := s.sticky && !w.getLsbD 4, degen := s.degen && !w.getLsbD 8 }

end Sys2Proof.Machine
end

