-- ==== Sys2Proof/Machine/Ops.lean ====
section
/-! DEFINITION. The shared operations: reading and writing slots (with R179's abandoned load), the load port, `FSPEC`, and
the effects of a failure (60_exceptions.md R284), which is all that stands in for an exception here (R291). -/

namespace Sys2Proof.Machine

/-! ### Slots -/

/-- `B[i]`; an index `i ≥ NSLOT` shows an EMPTY slot (10_state.md R72). -/
def slotAt (s : State) (i : SlotIx) : Slot :=
  if i.toNat < s.par.nslot then s.slots[i.toNat] else .empty

/-- `B[i] <- v` and nothing else (00_scope.md R11). -/
def setSlot (i : SlotIx) (v : Slot) (s : State) : State :=
  { s with slots := s.slots.set i.toNat v }

/-- The load is abandoned, or finished: `OPENV <- 0`, `OPENSLOT <- 0`, `WPEND <- none`. -/
def releaseLoad (s : State) : State := { s with openV := false, openSlot := 0#4, wpend := none }

/-- A load begins in slot `d`: `OPENV <- 1`, `OPENSLOT <- d`, `WPEND <- none` (R172). -/
def claimLoad (d : SlotIx) (s : State) : State := { s with openV := true, openSlot := d, wpend := none }

/-- A command writes or empties `B[d]`: if `d` is the OPEN slot, the load is abandoned (40_buffer_commands.md R179). -/
def writeSlot (d : SlotIx) (v : Slot) (s : State) : State :=
  if s.openV && s.openSlot == d then releaseLoad (setSlot d v s) else setSlot d v s

/-- `B[d] <- VALID b` by a command. -/
def writeBuffer (d : SlotIx) (b : Buffer) (s : State) : State := writeSlot d (.valid b) s

/-- `B[d] <- VALID { kind, rate, chan, data }` by a command. -/
def writeSignal (d : SlotIx) (rate : Rat) (chan : BitVec 2) (data : Samples) (s : State) : State :=
  writeBuffer d (.signal { rate := rate, chan := chan, data := data }) s

/-- The signal buffer being loaded, if a slot is OPEN (R71). -/
def openBuffer (s : State) : Option Signal :=
  if s.openV then
    match slotAt s s.openSlot with
    | .empty => none
    | .opened b => some b
    | .valid _ => none
  else none

/-- `WPEND <- p`. -/
def setPending (p : Option Rat) (s : State) : State := { s with wpend := p }

/-! ### `FSPEC` -/

/-- `FSPEC <- f` (10_state.md R56). -/
def setFilter (f : FilterSpec) (s : State) : State := { s with fspec := f }

/-- `FSPEC.valid <- 0`; the other fields cannot be observed then (R77). -/
def dropFilter (s : State) : State := { s with fspec := { s.fspec with valid := false } }

/-! ### Failure (60_exceptions.md R284) -/

/-- Why a command fails after decoding: the stage and the reason it reports; its class is the reason's (R283). -/
structure Failure where
  stage : Stage
  reason : Reason
deriving DecidableEq, Repr

/-- R284 (a): a decode failure of a word with operation code `opc`. No slot changes. -/
def takeDecodeFailure (opc : BitVec 8) (reason : Reason) (s : State) : State :=
  recordFailure opc .decode reason s

/-- The destinations a failing command loses (R284 (b)): its `DST` slot is emptied (and with it a load in that slot,
R179), and `BPDESIGN` and `EXTRACT` lose the filter. -/
def invalidate (i : Instr) (s : State) : State :=
  let s := match i.dst with
    | none => s
    | some d => writeSlot d .empty s
  if i.designsFilter then dropFilter s else s

/-- R284 (b): a failure after decoding, the one shared operation every failing command goes through. -/
def takeFailure (i : Instr) (f : Failure) (s : State) : State :=
  recordFailure i.op.code f.stage f.reason (invalidate i s)

/-- A failed `WDATA` write reports `OPC` 0xFF and stage BUFFER (R284 (c), 40_buffer_commands.md R176). -/
def takePortFailure (reason : Reason) (s : State) : State :=
  recordFailure 0xFF#8 .buffer reason s

/-- "The load is aborted" (R176): the OPEN slot is emptied and the load port released. -/
def abortLoad (s : State) : State := releaseLoad (setSlot s.openSlot .empty s)

/-- A command runs (R145's last two sentences, R170, R284): its slot fields are checked against `NSLOT`; then its own rule,
`body`, either gives the state its writes leave, with `STATUS.ERR <- 0`, or fails. -/
def runCommand (i : Instr) (s : State) (body : Except Failure State) : Host.Outcome State Fault Refusal :=
  if i.slotsExist s.par.nslot then
    match body with
    | .ok t => .next (recordSuccess t)
    | .error f => .next (takeFailure i f s)
  else .next (takeDecodeFailure i.op.code .badSlot s)

end Sys2Proof.Machine
end

