-- ==== Sys2Proof/Machine/Operands.lean ====
section
/-! DEFINITION. The operand forms of the commands: source slots with their state and kind checks (60_exceptions.md R287
levels 2 and 3, R288), float configuration registers (level 4), and the lifting of an overflow to a failure (level 7). -/

namespace Sys2Proof.Machine

/-- Fail at a stage with a reason (00_scope.md R11 `fail`). -/
def failAt {α : Type} (stage : Stage) (reason : Reason) : Except Failure α :=
  .error { stage := stage, reason := reason }

/-- A source slot must be VALID (10_state.md R51); otherwise `SLOT_STATE` at stage DECODE (60_exceptions.md R285). -/
def srcBuffer (s : State) (a : SlotIx) : Except Failure Buffer :=
  match slotAt s a with
  | .empty => failAt .decode .slotState
  | .opened _ => failAt .decode .slotState
  | .valid b => .ok b

/-- A buffer of kind REAL or COMPLEX; an IMAGE fails with `KIND` (R288). -/
def asSignal : Buffer → Except Failure Signal
  | .signal b => .ok b
  | .image _ => failAt .decode .kind

/-- The elements of REAL data; COMPLEX data fails with `KIND` (R288). -/
def asReal : Samples → Except Failure (List Rat)
  | .real xs => .ok xs
  | .complex _ => failAt .decode .kind

/-- A buffer of kind IMAGE; any other fails with `KIND` (R288). -/
def asImage : Buffer → Except Failure Image
  | .signal _ => failAt .decode .kind
  | .image im => .ok im

/-- A source of kind REAL or COMPLEX. -/
def srcSignal (s : State) (a : SlotIx) : Except Failure Signal := do
  let b ← srcBuffer s a
  asSignal b

/-- A source of kind REAL, with its elements. -/
def srcReal (s : State) (a : SlotIx) : Except Failure (Signal × List Rat) := do
  let b ← srcSignal s a
  let xs ← asReal b.data
  pure (b, xs)

/-- Two sources of kind IMAGE: state of `SRCA`, state of `SRCB`, kind of `SRCA`, kind of `SRCB` (R287). -/
def srcImages (s : State) (a b : SlotIx) : Except Failure (Image × Image) := do
  let x ← srcBuffer s a
  let y ← srcBuffer s b
  let p ← asImage x
  let q ← asImage y
  pure (p, q)

/-- A float configuration register read by a command: `dec` of its bits, or `CFG_NONFINITE` (10_state.md section 6,
92_eei_decisions.md D37). -/
def cfgFloat (stage : Stage) (w : Word) : Except Failure Rat :=
  match dec w with
  | none => failAt stage .cfgNonfinite
  | some v => .ok v

/-- A check of a rule: the failure is reported if the condition holds. -/
def failIf (bad : Bool) (stage : Stage) (reason : Reason) : Except Failure Unit :=
  if bad then failAt stage reason else .ok ()

/-- The result of `rnd`, or `NumericRangeError` / `OVERFLOW` (00_scope.md R15, R17). -/
def orOverflow {α : Type} (stage : Stage) : Option α → Except Failure α
  | none => failAt stage .overflow
  | some v => .ok v

end Sys2Proof.Machine
end

