-- ==== Sys2Proof/Machine/Bandpass.lean ====
section
/-! DEFINITION. FIR_bandpass_filter: BPDESIGN and BPAPPLY (43_fir_bandpass.md R210 to R215). -/

namespace Sys2Proof.Machine

/-- Checks 3 to 6 of `BPDESIGN` (R211), at stage BPDESIGN; they give the two band edges and the tap count. -/
def designChecks (fs : Rat) (s : State) : Except Failure (Rat × Rat × Nat) := do
  let low ← cfgFloat .bpdesign s.cfg.fltBpLow
  let high ← cfgFloat .bpdesign s.cfg.fltBpHigh
  let taps := s.cfg.fltFirTaps.toNat
  failIf (!(decide (0 < low) && decide (low < high))) .bpdesign .bandOrder
  failIf (decide (fs / 2 ≤ high)) .bpdesign .nyquist
  failIf (decide (taps % 2 = 0) || decide (s.par.maxtaps < taps)) .bpdesign .taps
  pure (low, high, taps)

/-- The filter `BPDESIGN` stores (R211): `coef[k] = rnd(c[k])`; an overflow is reported at stage BPDESIGN (R285,
assumption log 6). -/
def designFilter (p : Config.Params) (low high fs : Rat) (taps : Nat) : Except Failure FilterSpec := do
  let coef ← orOverflow .bpdesign (rndAll (numBpdesign p low high fs taps))
  pure { valid := true, low := low, high := high, fs := fs, taps := taps, coef := coef }

/-- The rule of `BPDESIGN` (R211). -/
def bpdesignBody (a : SlotIx) (s : State) : Except Failure State := do
  let b ← srcSignal s a
  let (low, high, taps) ← designChecks b.rate s
  let f ← designFilter s.par low high b.rate taps
  pure (setFilter f s)

/-- `BPDESIGN bA` (R211). -/
def execBpdesign (a : SlotIx) (s : State) : Host.Outcome State Fault Refusal :=
  runCommand (.bpdesign a) s (bpdesignBody a s)

/-- `rnd(Same(x, coef)[n])` for every `n`, each part of a COMPLEX buffer separately (R214). -/
def applyFilter (coef : List Rat) (x : Samples) : Except Failure Samples :=
  orOverflow .bpapply (mapParts (fun v => rndRats (same v coef)) x)

/-- The rule of `BPAPPLY` (R214). -/
def bpapplyBody (d a : SlotIx) (s : State) : Except Failure State := do
  let b ← srcSignal s a
  failIf (!s.fspec.valid) .decode .noFilter
  failIf (decide (s.fspec.fs ≠ b.rate)) .bpapply .rateMismatch
  failIf (decide (b.data.length < s.fspec.taps)) .bpapply .shortFilter
  let out ← applyFilter s.fspec.coef b.data
  pure (writeSignal d b.rate b.chan out s)

/-- `BPAPPLY bD, bA` (R214). -/
def execBpapply (d a : SlotIx) (s : State) : Host.Outcome State Fault Refusal :=
  runCommand (.bpapply d a) s (bpapplyBody d a s)

end Sys2Proof.Machine
end

