-- ==== Sys2Proof/Machine/BufferPort.lean ====
section
/-! DEFINITION. The buffer commands NOP, BOPEN, BCLOSE, BFREE (40_buffer_commands.md R171 to R174). -/

namespace Sys2Proof.Machine

/-- `NOP` (R171): nothing besides `STATUS.ERR <- 0`. -/
def execNop (s : State) : Host.Outcome State Fault Refusal :=
  runCommand .nop s (.ok s)

/-- No data yet, of the given kind. -/
def emptySamples : SigKind → Samples
  | .real => .real []
  | .complex => .complex []

/-- The rule of `BOPEN` (R172): its three checks, then slot `d` OPEN and empty at the rate `SDR_SAMPLE_RATE` names. -/
def bopenBody (d : SlotIx) (kind : SigKind) (s : State) : Except Failure State := do
  failIf s.openV .buffer .slotState
  let rate ← cfgFloat .buffer s.cfg.sdrSampleRate
  failIf (decide (rate ≤ 0)) .buffer .rateNonpos
  pure (claimLoad d (setSlot d (.opened { rate := rate, chan := 0#2, data := emptySamples kind }) s))

/-- `BOPEN bD, kind` (R172). -/
def execBopen (d : SlotIx) (kind : SigKind) (s : State) : Host.Outcome State Fault Refusal :=
  runCommand (.bopen d kind) s (bopenBody d kind s)

/-- The rule of `BCLOSE` (R173): the OPEN slot becomes VALID with the same record, unless a COMPLEX load lacks a Q word. -/
def bcloseBody (s : State) : Except Failure State :=
  match openBuffer s with
  | none => failAt .buffer .slotState
  | some b =>
    if s.wpend.isSome then failAt .buffer .oddWords
    else .ok (releaseLoad (setSlot s.openSlot (.valid (.signal b)) s))

/-- `BCLOSE` (R173). -/
def execBclose (s : State) : Host.Outcome State Fault Refusal :=
  runCommand .bclose s (bcloseBody s)

/-- `BFREE bD` (R174): slot `d` is emptied, and a load in it abandoned. -/
def execBfree (d : SlotIx) (s : State) : Host.Outcome State Fault Refusal :=
  runCommand (.bfree d) s (.ok (writeSlot d .empty s))

end Sys2Proof.Machine
end

