-- ==== Sys2Proof/Machine/Envelope.lean ====
section
/-! DEFINITION. AM_envelope_detector: DEMOD (41_am_envelope_detector.md R190 to R192). -/

namespace Sys2Proof.Machine

/-- The envelope of a signal before rounding (R191): `NUM.mag` of every pair, or `NUM.henv`. -/
def envelope (p : Config.Params) : Samples → List Exact
  | .real xs => numHenv p xs
  | .complex zs => zs.map mag

/-- The stored envelope: `rnd` of each value; an overflow fails at the given stage. -/
def storedEnvelope (p : Config.Params) (stage : Stage) (x : Samples) : Except Failure (List Rat) :=
  orOverflow stage (rndAll (envelope p x))

/-- The rule of `DEMOD` (R191). -/
def demodBody (d a : SlotIx) (s : State) : Except Failure State := do
  let b ← srcSignal s a
  let out ← storedEnvelope s.par .env b.data
  pure (writeSignal d b.rate b.chan (.real out) s)

/-- `DEMOD bD, bA` (R191). -/
def execDemod (d a : SlotIx) (s : State) : Host.Outcome State Fault Refusal :=
  runCommand (.demod d a) s (demodBody d a s)

end Sys2Proof.Machine
end

