-- ==== Sys2Proof/Machine/Extractor.lean ====
section
/-! DEFINITION. channel_extractor: DCREM and EXTRACT (45_channel_extractor.md R240 to R244). -/

namespace Sys2Proof.Machine

/-- The mean `mu` of a non-empty sequence (R241). -/
def mean (x : List Rat) : Rat := sumR x / x.length

/-- `rnd(x[n] - mu)` for every `n`, `[]` for `[]` (R241). -/
def removeMean (x : List Rat) : Except Failure (List Rat) :=
  orOverflow .dcrem (rndRats (x.map fun v => v - mean x))

/-- The rule of `DCREM` (R241). -/
def dcremBody (d a : SlotIx) (s : State) : Except Failure State := do
  let (b, xs) ← srcReal s a
  let out ← removeMean xs
  pure (writeSignal d b.rate b.chan (.real out) s)

/-- `DCREM bD, bA` (R241). -/
def execDcrem (d a : SlotIx) (s : State) : Host.Outcome State Fault Refusal :=
  runCommand (.dcrem d a) s (dcremBody d a s)

/-- The rule of `EXTRACT` (R244): design, filter, envelope, mean removal, each step rounded as the command it stands for,
all of it committed together. -/
def extractBody (d a : SlotIx) (ch : BitVec 2) (s : State) : Except Failure State := do
  let (b, xs) ← srcReal s a
  let (low, high, taps) ← designChecks b.rate s
  failIf (decide (xs.length < taps)) .bpapply .shortFilter
  let f ← designFilter s.par low high b.rate taps
  let y1 ← orOverflow .bpapply (rndRats (same xs f.coef))
  let y2 ← storedEnvelope s.par .env (.real y1)
  let out ← removeMean y2
  pure (writeSignal d b.rate ch (.real out) (setFilter f s))

/-- `EXTRACT bD, bA, ch` (R244). -/
def execExtract (d a : SlotIx) (ch : BitVec 2) (s : State) : Host.Outcome State Fault Refusal :=
  runCommand (.extract d a ch) s (extractBody d a ch s)

end Sys2Proof.Machine
end

