-- ==== Sys2Proof/Machine/Gain.lean ====
section
/-! DEFINITION. AGC_gain_control: AGC (44_agc.md R230 to R235). -/

namespace Sys2Proof.Machine

/-- `EPS = 10^-10` (R231). -/
def agcEps : Rat := mkRat 1 10000000000

/-- `GMIN = 1/10` (R231). -/
def agcMin : Rat := mkRat 1 10

/-- `GMAX = 10` (R231). -/
def agcMax : Rat := 10

/-- The median window `W` for a buffer of length `N` (R233). -/
def agcWindow (n : Nat) : Nat :=
  let w0 := max 3 (n / 100)
  if w0 % 2 = 1 then w0 else w0 + 1

/-- `s[n]`: the median of `e[n-h] .. e[n+h]`, `h = (W-1)/2`, `e` zero outside its range (R231). -/
def agcSmoothed (e : List Rat) (n : Nat) : Rat :=
  let w := agcWindow e.length
  median ((List.range w).map fun i => zext e ((n : Int) + (i : Int) - (((w - 1) / 2 : Nat) : Int)))

/-- `min(GMAX, max(GMIN, T / max(s, EPS)))` (R231), an exact rational. -/
def agcGain (target smoothed : Rat) : Rat :=
  let floored := if smoothed < agcEps then agcEps else smoothed
  let g := target / floored
  let g := if g < agcMin then agcMin else g
  if agcMax < g then agcMax else g

/-- `g[n]` for every `n` (R231). -/
def agcGains (target : Rat) (e : List Rat) : List Rat :=
  (List.range e.length).map fun n => agcGain target (agcSmoothed e n)

/-- `rnd(x[n] · g[n])` for every `n`, each part of a COMPLEX buffer separately (R231). -/
def applyGains (g : List Rat) (x : Samples) : Option Samples :=
  mapParts (fun v => rndRats (v.zipWith (· * ·) g)) x

/-- The rule of `AGC` (R231, R232): the envelope is the stored result `DEMOD` would give, its overflow reported at stage
AGC (60_exceptions.md R285). -/
def agcBody (d a : SlotIx) (s : State) : Except Failure State := do
  let b ← srcSignal s a
  let target ← cfgFloat .agc s.cfg.agcTarget
  let e ← storedEnvelope s.par .agc b.data
  let out ← orOverflow .agc (applyGains (agcGains target e) b.data)
  pure (writeSignal d b.rate b.chan out s)

/-- `AGC bD, bA` (R231). -/
def execAgc (d a : SlotIx) (s : State) : Host.Outcome State Fault Refusal :=
  runCommand (.agc d a) s (agcBody d a s)

end Sys2Proof.Machine
end

