-- ==== Sys2Proof/Machine/Raster.lean ====
section
/-! DEFINITION. pixel_raster_formatter: FORMIMG and COMBINE (47_raster_formatter.md R260 to R267). -/

namespace Sys2Proof.Machine

/-- A pixel of an integer already known to lie in 0..255 (00_scope.md R19 (a)). -/
def pixel (n : Nat) : Byte := BitVec.ofNat 8 n

/-- `floor((v - lo) · 255 / (hi - lo))` (R263). -/
def normalise (lo hi v : Rat) : Nat := ((v - lo) * 255 / (hi - lo)).floor.toNat

/-- The used samples are flat: `max = min` (R264). -/
def isFlat (used : List Rat) : Bool := decide (maxR used = minR used)

/-- The pixels of the used samples, row-major (R262 to R264): normalised to their own extremes, or all 0 when they are
flat. -/
def rasterPixels (used : List Rat) : List Byte :=
  if isFlat used then used.map fun _ => pixel 0
  else used.map fun v => pixel (normalise (minR used) (maxR used) v)

/-- The rule of `FORMIMG` (R261 to R264). -/
def formimgBody (d a : SlotIx) (c : BitVec 4) (s : State) : Except Failure State := do
  let (_, xs) ← srcReal s a
  let width := s.cfg.decPixelsPerLine.toNat * c.toNat
  failIf (decide (width = 0)) .formimg .lineWidth
  let rows := xs.length / width
  failIf (decide (rows = 0)) .formimg .shortLine
  let used := xs.take (rows * width)
  let t := writeBuffer d (.image { rows := rows, width := width, pix := rasterPixels used }) s
  pure (if isFlat used then raiseDegen t else t)

/-- `FORMIMG bD, bA, C` (R261). -/
def execFormimg (d a : SlotIx) (c : BitVec 4) (s : State) : Host.Outcome State Fault Refusal :=
  runCommand (.formimg d a c) s (formimgBody d a c s)

/-- `floor((x + y) / 2)`, the sum formed without wrap-around (R267). -/
def averagePixel (x y : Byte) : Byte := pixel ((x.toNat + y.toNat) / 2)

/-- The rule of `COMBINE` (R267). -/
def combineBody (d a b : SlotIx) (s : State) : Except Failure State := do
  let (p, q) ← srcImages s a b
  failIf (decide (p.rows ≠ q.rows) || decide (p.width ≠ q.width)) .combine .shapeMismatch
  pure (writeBuffer d (.image { rows := p.rows, width := p.width, pix := p.pix.zipWith averagePixel q.pix }) s)

/-- `COMBINE bD, bA, bB` (R267). -/
def execCombine (d a b : SlotIx) (s : State) : Host.Outcome State Fault Refusal :=
  runCommand (.combine d a b) s (combineBody d a b s)

end Sys2Proof.Machine
end

