-- ==== Sys2Proof/Machine/Resampler.lean ====
section
/-! DEFINITION. polyphase_resampler: DECIM (42_decimator.md R200 to R204) and RESAMP (46_pixel_resampler.md R250 to
R253). -/

namespace Sys2Proof.Machine

/-- `q = floor(S / T)`, an unbounded natural (00_scope.md R19 (c), R201). -/
def decimFactor (source target : Rat) : Nat := (source / target).floor.toNat

/-- Element `i` of the filtered signal `v` of R202: the signal itself when `q = 1`, else `Same(x, NUM.antialias(q))`. -/
def decimFiltered (p : Config.Params) (q : Nat) (x : List Rat) (i : Nat) : Exact :=
  if q = 1 then .rat (x.getD i 0) else sameLowpass p x (numAntialias p q) i

/-- `out[j] = rnd(v[j·q])` for `0 ≤ j < Nout` (R202), of one part. -/
def decimPart (p : Config.Params) (q nout : Nat) (x : List Rat) : Option (List Rat) :=
  rndAll ((List.range nout).map fun j => decimFiltered p q x (j * q))

/-- The rule of `DECIM` (R201, R202). -/
def decimBody (d a : SlotIx) (s : State) : Except Failure State := do
  let b ← srcSignal s a
  let target ← cfgFloat .decim s.cfg.decAudioRate
  failIf (decide (target ≤ 0)) .decim .rateNonpos
  let q := decimFactor b.rate target
  failIf (decide (q < 1)) .decim .decimLt1
  let nout := b.data.length / q
  failIf (decide (nout = 0)) .decim .shortDecim
  let actual ← orOverflow .decim (rndRat (b.rate / q))
  let out ← orOverflow .decim (mapParts (decimPart s.par q nout) b.data)
  pure (writeSignal d actual b.chan out s)

/-- `DECIM bD, bA` (R201). -/
def execDecim (d a : SlotIx) (s : State) : Host.Outcome State Fault Refusal :=
  runCommand (.decim d a) s (decimBody d a s)

/-- `Mout = rhe(N · PR / fs)` (R252). -/
def resampleLength (n : Nat) (pixelRate fs : Rat) : Nat := (rhe ((n : Rat) * pixelRate / fs)).toNat

/-- The rule of `RESAMP` (R251, R252). -/
def resampBody (d a : SlotIx) (s : State) : Except Failure State := do
  let (b, xs) ← srcReal s a
  let line ← cfgFloat .resamp s.cfg.decLineRate
  let exactRate := line * (s.cfg.decPixelsPerLine.toNat : Rat)
  failIf (decide (exactRate ≤ 0)) .resamp .rateNonpos
  let pixelRate ← orOverflow .resamp (rndRat exactRate)
  let mout := resampleLength xs.length pixelRate b.rate
  failIf (decide (s.par.maxlen < mout)) .resamp .capacity
  let out ← orOverflow .resamp (rndAll (numResample s.par xs b.rate pixelRate mout))
  pure (writeSignal d pixelRate b.chan (.real out) s)

/-- `RESAMP bD, bA` (R251). -/
def execResamp (d a : SlotIx) (s : State) : Host.Outcome State Fault Refusal :=
  runCommand (.resamp d a) s (resampBody d a s)

end Sys2Proof.Machine
end

