-- ==== Sys2Proof/Machine/Dispatch.lean ====
section
/-! DEFINITION. The meaning of every command: one arm per constructor of Instr. -/

namespace Sys2Proof.Machine

def exec (i : Instr) (s : State) : Host.Outcome State Fault Refusal :=
  match i with
  | .nop => Sys2Proof.Machine.execNop s
  | .bopen d kind => Sys2Proof.Machine.execBopen d kind s
  | .bclose => Sys2Proof.Machine.execBclose s
  | .bfree d => Sys2Proof.Machine.execBfree d s
  | .demod d a => Sys2Proof.Machine.execDemod d a s
  | .dcrem d a => Sys2Proof.Machine.execDcrem d a s
  | .decim d a => Sys2Proof.Machine.execDecim d a s
  | .resamp d a => Sys2Proof.Machine.execResamp d a s
  | .bpdesign a => Sys2Proof.Machine.execBpdesign a s
  | .bpapply d a => Sys2Proof.Machine.execBpapply d a s
  | .agc d a => Sys2Proof.Machine.execAgc d a s
  | .extract d a ch => Sys2Proof.Machine.execExtract d a ch s
  | .formimg d a c => Sys2Proof.Machine.execFormimg d a c s
  | .combine d a b => Sys2Proof.Machine.execCombine d a b s

end Sys2Proof.Machine
end

