-- ==== Sys2Proof/Machine/RegisterMap.lean ====
section
/-! DEFINITION. The register map (20_memory.md R103, R104): every named register, its offset and its access. -/

namespace Sys2Proof.Machine

/-- The registers of R103, in the table's order. -/
inductive Reg where
  | id | cmd | status | errinfo
  | sdrSampleRate | decCarrierFreq | decLineRate | decPixelsPerLine | decAudioRate
  | fltBpLow | fltBpHigh | fltFirTaps | fltCtrl | fltOrder
  | agcTarget
  | wdata | openinfo
  | rsel | rptr | rdata | rinfo | rlen | rrate | rrows | rwidth
  | fsinfo | fsrate | fslow | fshigh | fsptr | fsdata
deriving DecidableEq, Repr

/-- The rows of R103. -/
def Reg.all : List Reg :=
  [.id, .cmd, .status, .errinfo, .sdrSampleRate, .decCarrierFreq, .decLineRate, .decPixelsPerLine, .decAudioRate,
    .fltBpLow, .fltBpHigh, .fltFirTaps, .fltCtrl, .fltOrder, .agcTarget, .wdata, .openinfo, .rsel, .rptr, .rdata,
    .rinfo, .rlen, .rrate, .rrows, .rwidth, .fsinfo, .fsrate, .fslow, .fshigh, .fsptr, .fsdata]

/-- The column `offset` of R103. -/
def Reg.offset : Reg → Nat
  | .id => 0x00
  | .cmd => 0x04
  | .status => 0x08
  | .errinfo => 0x0C
  | .sdrSampleRate => 0x10
  | .decCarrierFreq => 0x14
  | .decLineRate => 0x18
  | .decPixelsPerLine => 0x1C
  | .decAudioRate => 0x20
  | .fltBpLow => 0x24
  | .fltBpHigh => 0x28
  | .fltFirTaps => 0x2C
  | .fltCtrl => 0x30
  | .fltOrder => 0x34
  | .agcTarget => 0x38
  | .wdata => 0x40
  | .openinfo => 0x44
  | .rsel => 0x50
  | .rptr => 0x54
  | .rdata => 0x58
  | .rinfo => 0x5C
  | .rlen => 0x60
  | .rrate => 0x64
  | .rrows => 0x68
  | .rwidth => 0x6C
  | .fsinfo => 0x70
  | .fsrate => 0x74
  | .fslow => 0x78
  | .fshigh => 0x7C
  | .fsptr => 0x80
  | .fsdata => 0x84

/-- The accesses of R103: read-only, write-only, read-write, and `STATUS`, whose writes only clear. -/
inductive AccessKind where
  | ro | wo | rw | w1c
deriving DecidableEq, Repr

/-- The column `access` of R103. -/
def Reg.access : Reg → AccessKind
  | .id => .ro
  | .cmd => .wo
  | .status => .w1c
  | .errinfo => .ro
  | .sdrSampleRate => .rw
  | .decCarrierFreq => .rw
  | .decLineRate => .rw
  | .decPixelsPerLine => .rw
  | .decAudioRate => .rw
  | .fltBpLow => .rw
  | .fltBpHigh => .rw
  | .fltFirTaps => .rw
  | .fltCtrl => .ro
  | .fltOrder => .rw
  | .agcTarget => .rw
  | .wdata => .wo
  | .openinfo => .ro
  | .rsel => .rw
  | .rptr => .rw
  | .rdata => .ro
  | .rinfo => .ro
  | .rlen => .ro
  | .rrate => .ro
  | .rrows => .ro
  | .rwidth => .ro
  | .fsinfo => .ro
  | .fsrate => .ro
  | .fslow => .ro
  | .fshigh => .ro
  | .fsptr => .rw
  | .fsdata => .ro

/-- The word index `off[7:2]` of a register (R101). -/
def Reg.index (r : Reg) : RegIx := BitVec.ofNat 6 (r.offset / 4)

/-- The register at a word index; `none` at a reserved offset (R104). -/
def Reg.atIndex (ix : RegIx) : Option Reg :=
  Reg.all.find? fun r => r.offset == 4 * ix.toNat

end Sys2Proof.Machine
end

