-- ==== Sys2Proof/Machine/Ports.lean ====
section
/-! DEFINITION. The two data ports and the read-only views: `WDATA` (40_buffer_commands.md R175, R176), `RDATA` (R177,
R178), `FSDATA` (10_state.md R74), the views of a slot (R73), of `FSPEC` (R74) and of the load port (R71), and the byte
order of a sample file and of a byte-addressed bus (20_memory.md R106). -/

namespace Sys2Proof.Machine

/-! ### The load port -/

/-- The OPEN slot's buffer becomes `b`, and `WPEND` becomes `p`. -/
def storeLoad (b : Signal) (p : Option Rat) (s : State) : State :=
  setPending p (setSlot s.openSlot (.opened b) s)

/-- A word written to `WDATA` while `b` is being loaded and whose value is `v` (R175, R176 check 3 and effect). -/
def appendWord (b : Signal) (v : Rat) (s : State) : State :=
  match b.data, s.wpend with
  | .real xs, _ =>
    if s.par.maxlen ≤ xs.length then takePortFailure .capacity (abortLoad s)
    else storeLoad { b with data := .real (xs ++ [v]) } s.wpend s
  | .complex zs, none =>
    if s.par.maxlen ≤ zs.length then takePortFailure .capacity (abortLoad s)
    else setPending (some v) s
  | .complex zs, some re => storeLoad { b with data := .complex (zs ++ [(re, v)]) } none s

/-- `RegWrite(WDATA, w)` (R176): port closed, then non-finite, then full, else the word is appended. -/
def writeData (w : Word) (s : State) : State :=
  match openBuffer s with
  | none => takePortFailure .portClosed s
  | some b =>
    match dec w with
    | none => takePortFailure .nonfiniteInput (abortLoad s)
    | some v => appendWord b v s

/-! ### The read port -/

/-- `words(s)` of R177. A pending `WPEND` is not included. -/
def Samples.words : Samples → List Word
  | .real xs => xs.map enc
  | .complex zs => zs.flatMap fun z => [enc z.1, enc z.2]

/-- The word view of a slot (R177). -/
def Slot.words : Slot → List Word
  | .empty => []
  | .opened b => b.data.words
  | .valid (.signal b) => b.data.words
  | .valid (.image im) => im.pix.map fun p => p.setWidth 32

/-- `RegRead(RDATA)` (R178): the word and the state it leaves. -/
def readData (s : State) : Word × State :=
  match (slotAt s s.rsel).words[s.rptr.toNat]? with
  | some w => (w, { s with rptr := s.rptr + 1#32 })
  | none => (0#32, s)

/-- `RegRead(FSDATA)` (10_state.md R74): the word and the state it leaves. -/
def readCoef (s : State) : Word × State :=
  if s.fspec.valid && decide (s.fsptr.toNat < s.fspec.taps) then
    (enc (s.fspec.coef.getD s.fsptr.toNat 0), { s with fsptr := s.fsptr + 1#32 })
  else (0#32, s)

/-! ### Views (R71, R73, R74) -/

/-- The code of a slot's state in `RINFO[1:0]` (R51). -/
def Slot.stateCode : Slot → BitVec 2
  | .empty => 0#2
  | .opened _ => 1#2
  | .valid _ => 2#2

/-- The kind code of a signal (R52). -/
def kindCode : SigKind → BitVec 2
  | .real => 0#2
  | .complex => 1#2

/-- The kind code in `RINFO[5:4]` (R73): 0 REAL, 1 COMPLEX, 2 IMAGE; 0 for an EMPTY slot. -/
def Slot.kindField : Slot → BitVec 2
  | .empty => 0#2
  | .opened b => kindCode b.data.kind
  | .valid (.signal b) => kindCode b.data.kind
  | .valid (.image _) => 2#2

/-- The channel in `RINFO[9:8]` (R73): 0 for an image. -/
def Slot.chanField : Slot → BitVec 2
  | .empty => 0#2
  | .opened b => b.chan
  | .valid (.signal b) => b.chan
  | .valid (.image _) => 0#2

/-- `RINFO` (R73): state 1:0, kind 5:4, `chan` 9:8, the other bits 0. -/
def Slot.infoWord (x : Slot) : Word :=
  0#22 ++ x.chanField ++ 0#2 ++ x.kindField ++ 0#2 ++ x.stateCode

/-- `RLEN` (R73): the complete elements of a signal, `rows × width` of an image. -/
def Slot.lenWord : Slot → Word
  | .empty => 0#32
  | .opened b => BitVec.ofNat 32 b.data.length
  | .valid (.signal b) => BitVec.ofNat 32 b.data.length
  | .valid (.image im) => BitVec.ofNat 32 (im.rows * im.width)

/-- `RRATE` (R73): `enc(rate)` of a signal. -/
def Slot.rateWord : Slot → Word
  | .empty => 0#32
  | .opened b => enc b.rate
  | .valid (.signal b) => enc b.rate
  | .valid (.image _) => 0#32

/-- `RROWS` (R73). -/
def Slot.rowsWord : Slot → Word
  | .empty => 0#32
  | .opened _ => 0#32
  | .valid (.signal _) => 0#32
  | .valid (.image im) => BitVec.ofNat 32 im.rows

/-- `RWIDTH` (R73). -/
def Slot.widthWord : Slot → Word
  | .empty => 0#32
  | .opened _ => 0#32
  | .valid (.signal _) => 0#32
  | .valid (.image im) => BitVec.ofNat 32 im.width

/-- `OPENINFO` (R71): bit 31 `OPENV`, bit 30 a pending I word, bits 3:0 `OPENSLOT` (0 when `OPENV = 0`), the others 0. -/
def openInfoWord (s : State) : Word :=
  BitVec.ofBool s.openV ++ BitVec.ofBool s.wpend.isSome ++ 0#26 ++ (if s.openV then s.openSlot else 0#4)

/-- `FSINFO` (R74): bit 31 `valid`, bits 15:0 `taps`; 0 while `valid = 0`. -/
def filterInfoWord (f : FilterSpec) : Word :=
  if f.valid then 1#1 ++ 0#15 ++ BitVec.ofNat 16 f.taps else 0#32

/-- `FSRATE`, `FSLOW`, `FSHIGH` (R74): a field of `FSPEC` as a word; 0 while `valid = 0`. -/
def filterFieldWord (f : FilterSpec) (v : Rat) : Word :=
  if f.valid then enc v else 0#32

/-! ### Bytes (20_memory.md R106) -/

/-- Byte `i` (0 to 3) of a word on a byte-addressed bus: bits `8i+7 : 8i`, little-endian. -/
def wordByte (w : Word) (i : Nat) : Byte := w.extractLsb' (8 * i) 8

/-- The word whose bytes, from the lowest address on, are the four given. -/
def wordOfBytes (b0 b1 b2 b3 : Byte) : Word := b3 ++ b2 ++ b1 ++ b0

/-- The bytes of a sample file, taken four at a time in file order as little-endian words (R106). A remainder of one to
three bytes is no word. -/
def fileWords : List Byte → List Word
  | b0 :: b1 :: b2 :: b3 :: rest => wordOfBytes b0 b1 b2 b3 :: fileWords rest
  | _ => []

end Sys2Proof.Machine
end

