-- ==== Sys2Proof/Machine/Access.lean ====
section
/-! DEFINITION. Serving one host input: a register write, a register read, a command, the reset (20_memory.md R101 to R104,
R110; 10_state.md R58 to R74). -/

namespace Sys2Proof.Machine

/-- The reason a decode error reports (30_encoding.md R145). -/
def decodeReason : DecodeError → Reason
  | .reservedOpcode => .reservedOpcode
  | .reservedField => .reservedField

/-- A write of `w` to `CMD` (30_encoding.md R140, R145; 10_state.md R57): the word is decoded and executed at once, or
fails in decoding. -/
def serveCommand (w : Word) (s : State) : Host.Outcome State Fault Refusal :=
  match decode w with
  | .error e => .next (takeDecodeFailure (opcField w) (decodeReason e) s)
  | .ok i => exec i s

/-- A configuration register takes the 32 bits written, whatever they are (10_state.md section 6). -/
def setCfg (c : CfgRegs) (s : State) : State := { s with cfg := c }

/-- `RegWrite` to a named register (20_memory.md R103); a write to a read-only one is ignored (R104). -/
def writeReg (r : Reg) (w : Word) (s : State) : Host.Outcome State Fault Refusal :=
  match r with
  | .id => .next s
  | .cmd => serveCommand w s
  | .status => .next (acknowledge w s)
  | .errinfo => .next s
  | .sdrSampleRate => .next (setCfg { s.cfg with sdrSampleRate := w } s)
  | .decCarrierFreq => .next (setCfg { s.cfg with decCarrierFreq := w } s)
  | .decLineRate => .next (setCfg { s.cfg with decLineRate := w } s)
  | .decPixelsPerLine => .next (setCfg { s.cfg with decPixelsPerLine := w } s)
  | .decAudioRate => .next (setCfg { s.cfg with decAudioRate := w } s)
  | .fltBpLow => .next (setCfg { s.cfg with fltBpLow := w } s)
  | .fltBpHigh => .next (setCfg { s.cfg with fltBpHigh := w } s)
  | .fltFirTaps => .next (setCfg { s.cfg with fltFirTaps := w } s)
  | .fltCtrl => .next s
  | .fltOrder => .next (setCfg { s.cfg with fltOrder := w } s)
  | .agcTarget => .next (setCfg { s.cfg with agcTarget := w } s)
  | .wdata => .next (writeData w s)
  | .openinfo => .next s
  | .rsel => .next { s with rsel := w.setWidth 4, rptr := 0#32 }
  | .rptr => .next { s with rptr := w }
  | .rdata => .next s
  | .rinfo => .next s
  | .rlen => .next s
  | .rrate => .next s
  | .rrows => .next s
  | .rwidth => .next s
  | .fsinfo => .next s
  | .fsrate => .next s
  | .fslow => .next s
  | .fshigh => .next s
  | .fsptr => .next { s with fsptr := w }
  | .fsdata => .next s

/-- `RegRead` of a named register (R103): the word returned and the state left. Only `RDATA` and `FSDATA` change
anything (R109). -/
def readReg (r : Reg) (s : State) : Word × State :=
  match r with
  | .id => (s.par.idValue, s)
  | .cmd => (0#32, s)
  | .status => (statusWord s, s)
  | .errinfo => (errInfoWord s, s)
  | .sdrSampleRate => (s.cfg.sdrSampleRate, s)
  | .decCarrierFreq => (s.cfg.decCarrierFreq, s)
  | .decLineRate => (s.cfg.decLineRate, s)
  | .decPixelsPerLine => (s.cfg.decPixelsPerLine, s)
  | .decAudioRate => (s.cfg.decAudioRate, s)
  | .fltBpLow => (s.cfg.fltBpLow, s)
  | .fltBpHigh => (s.cfg.fltBpHigh, s)
  | .fltFirTaps => (s.cfg.fltFirTaps, s)
  | .fltCtrl => (1#32, s)
  | .fltOrder => (s.cfg.fltOrder, s)
  | .agcTarget => (s.cfg.agcTarget, s)
  | .wdata => (0#32, s)
  | .openinfo => (openInfoWord s, s)
  | .rsel => (s.rsel.setWidth 32, s)
  | .rptr => (s.rptr, s)
  | .rdata => readData s
  | .rinfo => ((slotAt s s.rsel).infoWord, s)
  | .rlen => ((slotAt s s.rsel).lenWord, s)
  | .rrate => ((slotAt s s.rsel).rateWord, s)
  | .rrows => ((slotAt s s.rsel).rowsWord, s)
  | .rwidth => ((slotAt s s.rsel).widthWord, s)
  | .fsinfo => (filterInfoWord s.fspec, s)
  | .fsrate => (filterFieldWord s.fspec s.fspec.fs, s)
  | .fslow => (filterFieldWord s.fspec s.fspec.low, s)
  | .fshigh => (filterFieldWord s.fspec s.fspec.high, s)
  | .fsptr => (s.fsptr, s)
  | .fsdata => readCoef s

/-- The word a read returns joins the run's read-back (70_reset_and_hazards.md R336). -/
def recordRead (r : Word × State) : State := { r.2 with readBack := r.2.readBack ++ [r.1] }

/-- `RegRead(4 * ix)`: a reserved offset reads 0 (20_memory.md R104). -/
def serveRead (ix : RegIx) (s : State) : State :=
  match Reg.atIndex ix with
  | none => recordRead (0#32, s)
  | some r => recordRead (readReg r s)

/-- `RegWrite(4 * ix, w)`: a reserved offset ignores it (R104). -/
def serveWrite (ix : RegIx) (w : Word) (s : State) : Host.Outcome State Fault Refusal :=
  match Reg.atIndex ix with
  | none => .next s
  | some r => writeReg r w s

/-- The reset input (70_reset_and_hazards.md R320, R321): every piece of state at its reset value, the parameters as they
were, and a new run with an empty read-back (R336); what the host sends after the reset stays to be served (assumption
log 3). -/
def serveReset (s : State) : State := { State.resetWith s.par with pending := s.pending }

/-- One input of the host, served to completion (20_memory.md R110). -/
def serve (x : HostInput) (s : State) : Host.Outcome State Fault Refusal :=
  match x with
  | .regWrite ix w => serveWrite ix w s
  | .regRead ix => .next (serveRead ix s)
  | .reset => .next (serveReset s)

/-- The next input is taken off the list of what the host sends. -/
def setPendingInputs (xs : List HostInput) (s : State) : State := { s with pending := xs }

end Sys2Proof.Machine
end

