-- ==== Sys2Proof/Machine/Step.lean ====
section
/-! DEFINITION. One step of the block, and how a command word is placed where the next step takes it. -/

namespace Sys2Proof.Machine

/-- One step: the next input of the host is served; with none there the block is idle and does nothing on its own
(70_reset_and_hazards.md R320, R336). -/
def step (s : State) : Host.Outcome State Fault Refusal :=
  match s.pending with
  | [] => .next s
  | x :: rest => serve x (setPendingInputs rest s)

/-- The command of `nbits` bits `w` becomes the very next thing the host sends: a write of it to `CMD` (30_encoding.md
R140; assumption log 9). -/
def State.withFetchWord (s : State) (nbits w : Nat) : State :=
  { s with pending := .regWrite Reg.cmd.index (BitVec.ofNat 32 (w % 2 ^ nbits)) :: s.pending }

end Sys2Proof.Machine
end

