-- ==== Sys2Proof/Machine/Assembler.lean ====
section
/-! DEFINITION. The assembler notation (30_encoding.md R148) and the pseudo-instructions (R149), as lists of what the host
sends. -/

namespace Sys2Proof.Machine

/-- `b0` to `b15`. -/
def slotName (i : SlotIx) : String := "b" ++ toString i.toNat

/-- The kind operand of `bopen`. -/
def kindName : SigKind → String
  | .real => "real"
  | .complex => "complex"

/-- The column `syntax` of R148, with no operand omitted. -/
def assembly : Instr → String
  | .nop => "nop"
  | .bopen d k => "bopen " ++ slotName d ++ ", " ++ kindName k
  | .bclose => "bclose"
  | .bfree d => "bfree " ++ slotName d
  | .demod d a => "demod " ++ slotName d ++ ", " ++ slotName a
  | .dcrem d a => "dcrem " ++ slotName d ++ ", " ++ slotName a
  | .decim d a => "decim " ++ slotName d ++ ", " ++ slotName a
  | .resamp d a => "resamp " ++ slotName d ++ ", " ++ slotName a
  | .bpdesign a => "bpdesign " ++ slotName a
  | .bpapply d a => "bpapply " ++ slotName d ++ ", " ++ slotName a
  | .agc d a => "agc " ++ slotName d ++ ", " ++ slotName a
  | .extract d a ch => "extract " ++ slotName d ++ ", " ++ slotName a ++ ", " ++ toString ch.toNat
  | .formimg d a c => "formimg " ++ slotName d ++ ", " ++ slotName a ++ ", " ++ toString c.toNat
  | .combine d a b => "combine " ++ slotName d ++ ", " ++ slotName a ++ ", " ++ slotName b

/-- `extract bD, bA` with its channel omitted: 0 (R148). -/
def extractDefault (d a : SlotIx) : Instr := .extract d a 0#2

/-- `formimg bD, bA` with its channel count omitted: 1 (R143, R148). -/
def formimgDefault (d a : SlotIx) : Instr := .formimg d a 1#4

/-- `wr REG, w`. -/
def wr (r : Reg) (w : Word) : HostInput := .regWrite r.index w

/-- `rd REG`. -/
def rd (r : Reg) : HostInput := .regRead r.index

/-- `cmd <assembly>`: short for `wr CMD, <word>`. -/
def cmd (i : Instr) : HostInput := wr .cmd (encode i)

/-- The pseudo-instruction `bpf bD, bA` (R149). -/
def bpf (d a : SlotIx) : List HostInput := [cmd (.bpdesign a), cmd (.bpapply d a)]

/-- The pseudo-instruction `load bD, kind, w0, w1, ...` (R149). -/
def load (d : SlotIx) (kind : SigKind) (ws : List Word) : List HostInput :=
  cmd (.bopen d kind) :: (ws.map (wr .wdata) ++ [cmd .bclose])

end Sys2Proof.Machine
end

