-- ==== Sys2Proof/Machine/Invariant.lean ====
section
/-! DEFINITION. The invariant of the state: what the spec says of every reachable state (00_scope.md R7, R14, R17;
10_state.md R52, R53, R56, R71). -/

namespace Sys2Proof.Machine

/-- Every element of the data is in `F` (00_scope.md R14, R17). -/
def Samples.inF : Samples → Bool
  | .real xs => xs.all isF
  | .complex zs => zs.all fun z => isF z.1 && isF z.2

/-- A signal buffer as R52 describes it: a positive rate in `F`, at most `MAXLEN` elements, every element in `F`. -/
def Signal.ok (p : Config.Params) (b : Signal) : Bool :=
  isF b.rate && decide (0 < b.rate) && decide (b.data.length ≤ p.maxlen) && b.data.inF

/-- An image as R53 describes it. -/
def Image.ok (p : Config.Params) (im : Image) : Bool :=
  decide (1 ≤ im.rows) && decide (1 ≤ im.width) && decide (im.pix.length = im.rows * im.width)
    && decide (im.rows * im.width ≤ p.maxlen)

/-- The content of a slot is as R52 and R53 describe it. -/
def Slot.ok (p : Config.Params) : Slot → Bool
  | .empty => true
  | .opened b => b.ok p
  | .valid (.signal b) => b.ok p
  | .valid (.image im) => im.ok p

/-- The slot is OPEN. -/
def Slot.isOpen : Slot → Bool
  | .empty => false
  | .opened _ => true
  | .valid _ => false

/-- While `valid = 1`: the band invariant `0 < low < high < fs/2`, an odd tap count in `1..MAXTAPS`, `taps` coefficients,
everything in `F` (R56), and the symmetry of the coefficients (43_fir_bandpass.md R211). -/
def FilterSpec.ok (p : Config.Params) (f : FilterSpec) : Bool :=
  !f.valid ||
    (isF f.low && isF f.high && isF f.fs && decide (0 < f.low) && decide (f.low < f.high) && decide (f.high < f.fs / 2)
      && decide (f.taps % 2 = 1) && decide (f.taps ≤ p.maxtaps) && decide (f.coef.length = f.taps) && f.coef.all isF
      && decide (f.coef.reverse = f.coef))

/-- The load port is coherent (R71): a slot is OPEN exactly when `OPENV = 1` and it is `OPENSLOT`. -/
def loadPortOk (s : State) : Prop :=
  (∀ i : SlotIx, (slotAt s i).isOpen = (s.openV && s.openSlot == i)) ∧ (s.openV = false → s.openSlot = 0#4)

/-- A word waits for its other half only in a COMPLEX load with room for one more element (R71, 40_buffer_commands.md
R176). -/
def pendingOk (s : State) : Prop :=
  match s.wpend with
  | none => True
  | some v => isF v = true ∧ ∃ b zs, openBuffer s = some b ∧ b.data = .complex zs ∧ zs.length < s.par.maxlen

/-- The invariant of the state. -/
structure Inv (s : State) : Prop where
  /-- the parameters meet R7's constraints -/
  params : s.par.ok = true
  /-- every slot's content is well formed -/
  slots : ∀ i : SlotIx, (slotAt s i).ok s.par = true
  /-- `FSPEC` is well formed -/
  filter : s.fspec.ok s.par = true
  /-- the load port is coherent -/
  load : loadPortOk s
  /-- `WPEND` is coherent -/
  pending : pendingOk s

end Sys2Proof.Machine
end

