-- ==== Sys2Proof/Safety.lean ====
section
/-! DEFINITION. The terms the claims are written in: what a command leaves alone, what a failure does (60_exceptions.md
R284), what a result buffer is, the reset state as a list of values (10_state.md R77), and clean runs
(70_reset_and_hazards.md R336). -/

namespace Sys2Proof.Safety

open Sys2Proof.Machine

/-! ### What stays -/

/-- What no command changes: the configuration registers, the read port's pointers, and the model's own fields
(10_state.md R50, R72, R74; 60_exceptions.md R284). -/
structure SameRest (s t : State) : Prop where
  cfg : t.cfg = s.cfg
  rsel : t.rsel = s.rsel
  rptr : t.rptr = s.rptr
  fsptr : t.fsptr = s.fsptr
  par : t.par = s.par
  pending : t.pending = s.pending
  readBack : t.readBack = s.readBack

/-- Every slot but the given one reads as before. -/
def OthersSame (d : Option SlotIx) (s t : State) : Prop :=
  ∀ j : SlotIx, d ≠ some j → slotAt t j = slotAt s j

/-- The load port after slot `d` has been written or emptied by a command (40_buffer_commands.md R179). -/
def LoadAfter (d : Option SlotIx) (s t : State) : Prop :=
  if s.openV = true ∧ d = some s.openSlot then t.openV = false ∧ t.openSlot = 0#4 ∧ t.wpend = none
  else t.openV = s.openV ∧ t.openSlot = s.openSlot ∧ t.wpend = s.wpend

/-! ### Outcomes of a command -/

/-- The effects of a failure after decoding, exactly (60_exceptions.md R284 (b)). -/
structure Fails (i : Instr) (stage : Stage) (reason : Reason) (s t : State) : Prop where
  err : t.err = reason.errClass
  sticky : t.sticky = true
  errInfo : t.errInfo = { opc := i.op.code, stage := stage, reason := reason }
  emptied : ∀ d, i.dst = some d → slotAt t d = .empty
  others : OthersSame i.dst s t
  load : LoadAfter i.dst s t
  lost : i.designsFilter = true → t.fspec.valid = false
  kept : i.designsFilter = false → t.fspec = s.fspec
  degen : t.degen = s.degen
  rest : SameRest s t

/-- The effects of a decode failure, exactly (R284 (a)): the report, and nothing else. -/
def FailsDecode (opc : BitVec 8) (reason : Reason) (s t : State) : Prop :=
  t = { s with
        err := .illegalCommand
        sticky := true
        errInfo := { opc := opc, stage := .decode, reason := reason } }

/-- A command has stored a result buffer in slot `d` and succeeded (40_buffer_commands.md R170, R179). It says nothing of
`FSPEC` and `DEGEN`. -/
structure Stores (d : SlotIx) (b : Buffer) (s t : State) : Prop where
  stored : slotAt t d = .valid b
  others : OthersSame (some d) s t
  load : LoadAfter (some d) s t
  err : t.err = .ok
  sticky : t.sticky = s.sticky
  errInfo : t.errInfo = s.errInfo
  rest : SameRest s t

/-- The load is aborted by a failed `WDATA` write (40_buffer_commands.md R176). -/
structure LoadAborted (reason : Reason) (s t : State) : Prop where
  err : t.err = reason.errClass
  sticky : t.sticky = true
  errInfo : t.errInfo = { opc := 0xFF#8, stage := .buffer, reason := reason }
  emptied : slotAt t s.openSlot = .empty
  others : OthersSame (some s.openSlot) s t
  released : t.openV = false ∧ t.openSlot = 0#4 ∧ t.wpend = none
  fspec : t.fspec = s.fspec
  degen : t.degen = s.degen
  rest : SameRest s t

/-- The OPEN slot's buffer has become `b` and `WPEND` `p`, and nothing else has changed (R176, success). -/
structure LoadGrows (b : Signal) (p : Option Rat) (s t : State) : Prop where
  grown : slotAt t s.openSlot = .opened b
  others : OthersSame (some s.openSlot) s t
  wpend : t.wpend = p
  openV : t.openV = s.openV
  openSlot : t.openSlot = s.openSlot
  flags : t.err = s.err ∧ t.sticky = s.sticky ∧ t.errInfo = s.errInfo ∧ t.degen = s.degen
  fspec : t.fspec = s.fspec
  rest : SameRest s t

/-! ### Results, part by part -/

/-- `out` is the rounded `f(x)` at each of `n` positions; for COMPLEX data, of the real parts and of the imaginary parts
separately (00_scope.md R17, R24; 92_eei_decisions.md D30). -/
def PartsRounded (n : Nat) (f : List Rat → Nat → Option Rat) : (x out : Samples) → Prop
  | .real xs, .real ys => ys.length = n ∧ ∀ j, j < n → ys[j]? = f xs j
  | .complex zs, .complex ws =>
    ws.length = n ∧ ∀ j, j < n →
      (ws[j]?).map (·.1) = f (zs.map (·.1)) j ∧ (ws[j]?).map (·.2) = f (zs.map (·.2)) j
  | .real _, .complex _ => False
  | .complex _, .real _ => False

/-- No `rnd` of the result overflows. -/
def partsFit (n : Nat) (f : List Rat → Nat → Option Rat) : Samples → Bool
  | .real xs => (List.range n).all fun j => (f xs j).isSome
  | .complex zs =>
    (List.range n).all fun j => (f (zs.map (·.1)) j).isSome && (f (zs.map (·.2)) j).isSome

/-- `Σ_{k<L} h[k] · x[n + M - k]` with `M = (L-1)/2` and `x` zero-extended, written out (00_scope.md R24). -/
def convolution (h x : List Rat) (n : Nat) : Rat :=
  ((List.range h.length).map fun k =>
    h.getD k 0 * zext x ((n : Int) + (((h.length - 1) / 2 : Nat) : Int) - (k : Int))).sum

/-- The same for coefficients `u[k] / total` (R28), an exact real. -/
def lowpassConvolution (p : Config.Params) (h : Lowpass) (x : List Rat) (n : Nat) : Exact :=
  .ratio p.kaiserBeta
    (.sum ((List.range h.u.length).map fun k =>
      (h.u.getD k (.ofRat 0)).scale (zext x ((n : Int) + (((h.u.length - 1) / 2 : Nat) : Int) - (k : Int)))))
    h.total

/-! ### The table of kinds (60_exceptions.md R288) -/

/-- The kinds a slot's content can have: REAL, COMPLEX, IMAGE (10_state.md R52, R53). -/
inductive ContentKind where
  | real | complex | image
deriving DecidableEq, Repr

/-- The kind of a complete buffer. -/
def contentKind : Buffer → ContentKind
  | .signal { rate := _, chan := _, data := .real _ } => .real
  | .signal { rate := _, chan := _, data := .complex _ } => .complex
  | .image _ => .image

/-- The column "source kind(s)" of R288. -/
def takesKind : Instr → ContentKind → Bool
  | .nop, _ => true
  | .bopen _ _, _ => true
  | .bclose, _ => true
  | .bfree _, _ => true
  | .demod _ _, k => k != .image
  | .dcrem _ _, k => k == .real
  | .decim _ _, k => k != .image
  | .resamp _ _, k => k == .real
  | .bpdesign _, k => k != .image
  | .bpapply _ _, k => k != .image
  | .agc _ _, k => k != .image
  | .extract _ _ _, k => k == .real
  | .formimg _ _ _, k => k == .real
  | .combine _ _ _, k => k == .image

/-- The column "result kind" of R288, given the kind of the source; `none` for a command that stores no result. -/
def resultKind : Instr → ContentKind → Option ContentKind
  | .nop, _ => none
  | .bopen _ _, _ => none
  | .bclose, _ => none
  | .bfree _, _ => none
  | .demod _ _, _ => some .real
  | .dcrem _ _, _ => some .real
  | .decim _ _, k => some k
  | .resamp _ _, _ => some .real
  | .bpdesign _, _ => none
  | .bpapply _ _, k => some k
  | .agc _ _, k => some k
  | .extract _ _ _, _ => some .real
  | .formimg _ _ _, _ => some .image
  | .combine _ _ _, _ => some .image

/-! ### Reset -/

/-- The reset values of 10_state.md R77, row by row. -/
structure AtReset (t : State) : Prop where
  slots : ∀ i : SlotIx, slotAt t i = .empty
  fsvalid : t.fspec.valid = false
  status : statusWord t = 0x00000000#32
  errinfo : errInfoWord t = 0x00000000#32
  sdrSampleRate : (readReg .sdrSampleRate t).1 = 0x00000000#32
  decCarrierFreq : (readReg .decCarrierFreq t).1 = 0x45160000#32
  decLineRate : (readReg .decLineRate t).1 = 0x40000000#32
  decPixelsPerLine : (readReg .decPixelsPerLine t).1 = 0x00001040#32
  decAudioRate : (readReg .decAudioRate t).1 = 0x46A28000#32
  fltBpLow : (readReg .fltBpLow t).1 = 0x450FC000#32
  fltBpHigh : (readReg .fltBpHigh t).1 = 0x451C4000#32
  fltFirTaps : (readReg .fltFirTaps t).1 = 0#32
  fltCtrl : (readReg .fltCtrl t).1 = 0x00000001#32
  fltOrder : (readReg .fltOrder t).1 = 0#32
  agcTarget : (readReg .agcTarget t).1 = 0x3F800000#32
  load : t.openV = false ∧ t.openSlot = 0#4 ∧ t.wpend = none
  pointers : t.rsel = 0#4 ∧ t.rptr = 0#32 ∧ t.fsptr = 0#32

/-! ### The channel tag (45_channel_extractor.md R243) -/

/-- A slot with its channel tag cleared. -/
def eraseChan : Slot → Slot
  | .empty => .empty
  | .opened b => .opened { b with chan := 0#2 }
  | .valid (.signal b) => .valid (.signal { b with chan := 0#2 })
  | .valid (.image im) => .valid (.image im)

/-- A state with every channel tag cleared. -/
def eraseChans (s : State) : State := { s with slots := s.slots.map eraseChan }

/-! ### Runs (70_reset_and_hazards.md R336) -/

/-- The state a run of host inputs leaves, from a start state: each is served in order. `none` would be a stop, which
does not occur. -/
def endState : List HostInput → State → Option State
  | [], s => some s
  | x :: xs, s =>
    match serve x s with
    | .next t => endState xs t
    | .fault _ => none
    | .refused _ => none

/-- A run that started with `STICKY = 0` has ended clean: `STATUS.STICKY = 0` and `OPENV = 0`. -/
def Clean (s : State) : Prop := s.sticky = false ∧ s.openV = false

end Sys2Proof.Safety
end

