-- ==== Sys2Proof/Certificates/Slice0/Obligations.lean ====
section
/-! DEFINITION. The statements for the provers, from the numbered rules of spec/. -/

open Sys2Proof Sys2Proof.Machine Sys2Proof.Safety

/-! ### Encoding -/

/-- 30_encoding.md R141 to R144: decoding the word of a well-formed command gives the command back, every operand at every
value the encoding admits. -/
def Obligations.DecodeOfEncodeIsTheCommand : Prop :=
  ∀ i : Instr, i.wf = true → decode (encode i) = .ok i

/-- 30_encoding.md R145, R146: a word that decodes is the word of the command it decodes to, so no bit of a command word
is dropped and no two words mean the same. -/
def Obligations.EncodeOfDecodeIsTheWord : Prop :=
  ∀ (w : Word) (i : Instr), decode w = .ok i → i.wf = true ∧ encode i = w

/-- 30_encoding.md R144: with `match` and `mask` as the table has them, a word decodes to a command of a row exactly when
`w & mask == match`, but for `FORMIMG` with channel count 0, which R145 refuses. -/
def Obligations.DecodesExactlyTheTableRows : Prop :=
  ∀ (w : Word) (o : Opcode),
    (∃ i, decode w = .ok i ∧ i.op = o) ↔
      (w &&& o.mask = o.matchWord ∧ (o = .formimg → w.extractLsb' 0 4 ≠ 0#4))

/-- 30_encoding.md R145, R146: a word whose `OPC` is in no row fails with `RESERVED_OPCODE`; one whose `OPC` is in a row but
which has a must-be-zero bit set, or is `FORMIMG` with `C = 0`, fails with `RESERVED_FIELD`. -/
def Obligations.UndecodableWordsAreNamedByRule : Prop :=
  ∀ w : Word,
    ((∀ o : Opcode, o.code ≠ w.extractLsb' 24 8) → decode w = .error .reservedOpcode)
    ∧ (∀ o : Opcode, o.code = w.extractLsb' 24 8 → w &&& o.mask ≠ o.matchWord → decode w = .error .reservedField)
    ∧ (w &&& Opcode.formimg.mask = Opcode.formimg.matchWord → w.extractLsb' 0 4 = 0#4 →
        decode w = .error .reservedField)

/-- 30_encoding.md R150: the worked encodings, both ways, and the two words that are no command. -/
def Obligations.WorkedEncodingsDecode : Prop :=
  (∀ p ∈ [(Instr.demod 1#4 0#4, 0x10100000#32), (.bopen 0#4 .complex, 0x01000001#32),
      (.formimg 2#4 1#4 1#4, 0x60210001#32), (.combine 3#4 1#4 2#4, 0x61312000#32), (.extract 2#4 1#4 1#2, 0x50210001#32),
      (.bpdesign 0#4, 0x30000000#32), (.bfree 3#4, 0x03300000#32)],
    encode p.1 = p.2 ∧ decode p.2 = .ok p.1)
  ∧ decode 0x10100001#32 = .error .reservedField
  ∧ decode 0x7F000000#32 = .error .reservedOpcode

/-! ### The step -/

/-- 20_memory.md R110, R112: when the next thing the host sends is a write of a command word to `CMD`, the step is the
meaning of the decoded command on the state with that access taken off; the model's `withFetchWord` places a word so. -/
def Obligations.StepRunsTheDecodedCommand : Prop :=
  ∀ (s : State) (w : Word) (i : Instr), decode w = .ok i →
    (∀ rest, s.pending = .regWrite Reg.cmd.index w :: rest → step s = exec i { s with pending := rest })
    ∧ step (s.withFetchWord 32 w.toNat) = exec i s

/-- 60_exceptions.md R284 (a), 30_encoding.md R145: a command word that does not decode leaves the report of a decode
failure and changes nothing else. -/
def Obligations.UndecodableWordOnlyReports : Prop :=
  ∀ (s : State) (w : Word) (rest : List HostInput), s.pending = .regWrite Reg.cmd.index w :: rest →
    (decode w = .error .reservedOpcode →
      ∃ t, step s = .next t ∧ FailsDecode (w.extractLsb' 24 8) .reservedOpcode { s with pending := rest } t)
    ∧ (decode w = .error .reservedField →
      ∃ t, step s = .next t ∧ FailsDecode (w.extractLsb' 24 8) .reservedField { s with pending := rest } t)

/-- 30_encoding.md R141, R145; 60_exceptions.md R284 (a): a command that uses a slot field `≥ NSLOT` fails with `BAD_SLOT`
at stage DECODE, whatever the slots hold, and changes no slot. -/
def Obligations.BadSlotFailsInDecode : Prop :=
  ∀ (i : Instr) (s : State), (∃ x ∈ i.slotFields, s.par.nslot ≤ x.toNat) →
    ∃ t, exec i s = .next t ∧ FailsDecode i.op.code .badSlot s t

/-- 60_exceptions.md R286, 70_reset_and_hazards.md R335: every access completes; the block accepts every access in every
state. -/
def Obligations.EveryAccessCompletes : Prop :=
  ∀ s : State, ∃ t, step s = .next t ∧ (s.pending = [] → t = s) ∧ (∀ x rest, s.pending = x :: rest → t.pending = rest)

/-! ### Buffer commands -/

/-- 40_buffer_commands.md R171: the word 0 is `NOP`, and `NOP` does nothing besides `STATUS.ERR <- 0`. -/
def Obligations.NopOnlyClearsErr : Prop :=
  decode 0x00000000#32 = .ok .nop ∧ ∀ s : State, exec .nop s = .next { s with err := .ok }

/-- 40_buffer_commands.md R172, effect: with no slot OPEN and a finite positive rate in `SDR_SAMPLE_RATE`, slot `d` is
OPEN, empty, of the kind asked for, at that rate; the load port names it; nothing else changes but `ERR`. -/
def Obligations.BopenOpensAnEmptySlot : Prop :=
  ∀ (d : SlotIx) (k : SigKind) (s : State) (r : Rat),
    d.toNat < s.par.nslot → s.openV = false → dec s.cfg.sdrSampleRate = some r → 0 < r →
    ∃ (t : State) (b : Signal), exec (.bopen d k) s = .next t
      ∧ slotAt t d = .opened b ∧ b.rate = r ∧ b.chan = 0#2 ∧ b.data.kind = k ∧ b.data.length = 0
      ∧ OthersSame (some d) s t
      ∧ t.openV = true ∧ t.openSlot = d ∧ t.wpend = none
      ∧ t.err = .ok ∧ t.sticky = s.sticky ∧ t.errInfo = s.errInfo ∧ t.degen = s.degen ∧ t.fspec = s.fspec
      ∧ SameRest s t

/-- 40_buffer_commands.md R173, effect: the OPEN slot becomes VALID with the same record and the load port is released. -/
def Obligations.BcloseMakesTheLoadValid : Prop :=
  ∀ (s : State) (b : Signal), s.openV = true → slotAt s s.openSlot = .opened b → s.wpend = none →
    ∃ t, exec .bclose s = .next t
      ∧ slotAt t s.openSlot = .valid (.signal b) ∧ OthersSame (some s.openSlot) s t
      ∧ t.openV = false ∧ t.openSlot = 0#4 ∧ t.wpend = none
      ∧ t.err = .ok ∧ t.sticky = s.sticky ∧ t.errInfo = s.errInfo ∧ t.degen = s.degen ∧ t.fspec = s.fspec
      ∧ SameRest s t

/-- 40_buffer_commands.md R172 checks 1 to 3 and R173 checks 1 and 2, in their order, at stage BUFFER. A failing `BCLOSE`
changes no slot: after `ODD_WORDS` the slot is still OPEN and `WPEND` still holds the I word. -/
def Obligations.LoadCommandsCheckInOrder : Prop :=
  (∀ (d : SlotIx) (k : SigKind) (s : State), d.toNat < s.par.nslot →
    (s.openV = true → ∃ t, exec (.bopen d k) s = .next t ∧ Fails (.bopen d k) .buffer .slotState s t)
    ∧ (s.openV = false → dec s.cfg.sdrSampleRate = none →
        ∃ t, exec (.bopen d k) s = .next t ∧ Fails (.bopen d k) .buffer .cfgNonfinite s t)
    ∧ (∀ r, s.openV = false → dec s.cfg.sdrSampleRate = some r → r ≤ 0 →
        ∃ t, exec (.bopen d k) s = .next t ∧ Fails (.bopen d k) .buffer .rateNonpos s t))
  ∧ ∀ s : State,
    (s.openV = false → ∃ t, exec .bclose s = .next t ∧ Fails .bclose .buffer .slotState s t)
    ∧ (∀ b, s.openV = true → slotAt s s.openSlot = .opened b → s.wpend ≠ none →
        ∃ t, exec .bclose s = .next t ∧ Fails .bclose .buffer .oddWords s t
          ∧ slotAt t s.openSlot = .opened b ∧ t.openV = true ∧ t.wpend = s.wpend)

/-- 40_buffer_commands.md R174: `BFREE` always succeeds after decoding: slot `d` is EMPTY, a load in it is abandoned, and
nothing else changes but `ERR`; its word is 0x03000000 with `d` at bit 20. -/
def Obligations.BfreeEmptiesTheSlot : Prop :=
  ∀ (d : SlotIx) (s : State), d.toNat < s.par.nslot →
    encode (.bfree d) = 0x03000000#32 + (d.setWidth 32 <<< 20)
    ∧ ∃ t, exec (.bfree d) s = .next t
      ∧ slotAt t d = .empty ∧ OthersSame (some d) s t ∧ LoadAfter (some d) s t
      ∧ t.err = .ok ∧ t.sticky = s.sticky ∧ t.errInfo = s.errInfo ∧ t.degen = s.degen ∧ t.fspec = s.fspec
      ∧ SameRest s t

/-! ### Sources -/

/-- 60_exceptions.md R287 level 2, 10_state.md R51: a command one of whose sources is not VALID fails with `SLOT_STATE` at
stage DECODE. -/
def Obligations.SourcesMustBeValid : Prop :=
  ∀ (i : Instr) (s : State), i.slotsExist s.par.nslot = true →
    (∃ a ∈ i.sources, ∀ b, slotAt s a ≠ .valid b) →
    ∃ t, exec i s = .next t ∧ Fails i .decode .slotState s t

/-- 60_exceptions.md R288: a source of any kind but those the table gives fails with `KIND` at stage DECODE; and when the
command succeeds, its result has the kind the table gives. -/
def Obligations.KindsFollowTheTable : Prop :=
  ∀ (i : Instr) (s : State), i.slotsExist s.par.nslot = true →
    (∀ a ∈ i.sources, ∃ b, slotAt s a = .valid b) →
    ((∃ a ∈ i.sources, ∃ b, slotAt s a = .valid b ∧ takesKind i (contentKind b) = false) →
      ∃ t, exec i s = .next t ∧ Fails i .decode .kind s t)
    ∧ (∀ t a b d k, exec i s = .next t → t.err = .ok → i.sources.head? = some a → slotAt s a = .valid b → i.dst = some d →
        resultKind i (contentKind b) = some k → ∃ c, slotAt t d = .valid c ∧ contentKind c = k)

/-! ### AM_envelope_detector -/

/-- 41_am_envelope_detector.md R191, COMPLEX source: the result is REAL, `out[n] = rnd(sqrt(re² + im²))`, of the source's
length, rate and channel; if some magnitude overflows the command fails at stage ENV. -/
def Obligations.DemodOfComplexStoresMagnitudes : Prop :=
  ∀ (d a : SlotIx) (s : State) (rate : Rat) (chan : BitVec 2) (zs : List (Rat × Rat)),
    (Instr.demod d a).slotsExist s.par.nslot = true →
    slotAt s a = .valid (.signal { rate := rate, chan := chan, data := .complex zs }) →
    ((∀ z ∈ zs, (rndRoot (z.1 * z.1 + z.2 * z.2)).isSome = true) →
      ∃ (t : State) (out : List Rat), exec (.demod d a) s = .next t
        ∧ Stores d (.signal { rate := rate, chan := chan, data := .real out }) s t
        ∧ t.fspec = s.fspec ∧ t.degen = s.degen
        ∧ out.length = zs.length
        ∧ ∀ (n : Nat) (z : Rat × Rat), zs[n]? = some z → out[n]? = rndRoot (z.1 * z.1 + z.2 * z.2))
    ∧ ((∃ z ∈ zs, rndRoot (z.1 * z.1 + z.2 * z.2) = none) →
      ∃ t, exec (.demod d a) s = .next t ∧ Fails (.demod d a) .env .overflow s t)

/-- 41_am_envelope_detector.md R191, REAL source: `out[n] = rnd(NUM.henv(x)[n])`, one per element, so an empty buffer gives
an empty one. -/
def Obligations.DemodOfRealStoresTheHilbertEnvelope : Prop :=
  ∀ (d a : SlotIx) (s : State) (rate : Rat) (chan : BitVec 2) (xs : List Rat),
    (Instr.demod d a).slotsExist s.par.nslot = true →
    slotAt s a = .valid (.signal { rate := rate, chan := chan, data := .real xs }) →
    ((∀ v ∈ numHenv s.par xs, v.rnd.isSome = true) →
      ∃ (t : State) (out : List Rat), exec (.demod d a) s = .next t
        ∧ Stores d (.signal { rate := rate, chan := chan, data := .real out }) s t
        ∧ t.fspec = s.fspec ∧ t.degen = s.degen
        ∧ out.length = xs.length
        ∧ ∀ (n : Nat) (v : Exact), (numHenv s.par xs)[n]? = some v → out[n]? = v.rnd)
    ∧ ((∃ v ∈ numHenv s.par xs, v.rnd = none) →
      ∃ t, exec (.demod d a) s = .next t ∧ Fails (.demod d a) .env .overflow s t)

/-! ### polyphase_resampler -/

/-- 42_decimator.md R202: `q = floor(S/T)`, `actual = rnd(S/q)`, `out[j] = rnd(v[j·q])` for `j < floor(N/q)`, where `v` is
the source when `q = 1` and `Same(x, NUM.antialias(q))` otherwise, each part of a COMPLEX buffer separately. -/
def Obligations.DecimKeepsEveryQthFilteredSample : Prop :=
  ∀ (d a : SlotIx) (s : State) (b : Signal) (T actual : Rat) (q : Nat),
    (Instr.decim d a).slotsExist s.par.nslot = true → slotAt s a = .valid (.signal b) →
    dec s.cfg.decAudioRate = some T → 0 < T → (q : Int) = (b.rate / T).floor → 1 ≤ q → q ≤ b.data.length →
    rndRat (b.rate / q) = some actual →
    (partsFit (b.data.length / q)
        (fun x j => if q = 1 then rndRat (x.getD j 0) else (lowpassConvolution s.par (numAntialias s.par q) x (j * q)).rnd) b.data = true →
      ∃ (t : State) (out : Samples), exec (.decim d a) s = .next t
        ∧ Stores d (.signal { rate := actual, chan := b.chan, data := out }) s t
        ∧ t.fspec = s.fspec ∧ t.degen = s.degen
        ∧ PartsRounded (b.data.length / q)
            (fun x j => if q = 1 then rndRat (x.getD j 0) else (lowpassConvolution s.par (numAntialias s.par q) x (j * q)).rnd) b.data out)
    ∧ (partsFit (b.data.length / q)
        (fun x j => if q = 1 then rndRat (x.getD j 0) else (lowpassConvolution s.par (numAntialias s.par q) x (j * q)).rnd) b.data = false →
      ∃ t, exec (.decim d a) s = .next t ∧ Fails (.decim d a) .decim .overflow s t)

/-- 42_decimator.md R201, checks 3 to 6 in their order, at stage DECIM. -/
def Obligations.DecimChecksInOrder : Prop :=
  ∀ (d a : SlotIx) (s : State) (b : Signal),
    (Instr.decim d a).slotsExist s.par.nslot = true → slotAt s a = .valid (.signal b) → 0 < b.rate →
    (dec s.cfg.decAudioRate = none →
      ∃ t, exec (.decim d a) s = .next t ∧ Fails (.decim d a) .decim .cfgNonfinite s t)
    ∧ ∀ T, dec s.cfg.decAudioRate = some T →
      (T ≤ 0 → ∃ t, exec (.decim d a) s = .next t ∧ Fails (.decim d a) .decim .rateNonpos s t)
      ∧ (0 < T → b.rate < T → ∃ t, exec (.decim d a) s = .next t ∧ Fails (.decim d a) .decim .decimLt1 s t)
      ∧ (0 < T → T ≤ b.rate → (b.data.length : Int) < (b.rate / T).floor →
          ∃ t, exec (.decim d a) s = .next t ∧ Fails (.decim d a) .decim .shortDecim s t)

/-- 46_pixel_resampler.md R252: `PR = rnd(line_rate × pixels_per_line)`, `Mout = rhe(N·PR/fs)`,
`out[m] = rnd(NUM.resample(x, fs, PR, Mout)[m])`, at rate `PR`. -/
def Obligations.ResampStoresThePixelStream : Prop :=
  ∀ (d a : SlotIx) (s : State) (rate : Rat) (chan : BitVec 2) (xs : List Rat) (line pr : Rat) (mout : Nat),
    (Instr.resamp d a).slotsExist s.par.nslot = true →
    slotAt s a = .valid (.signal { rate := rate, chan := chan, data := .real xs }) →
    dec s.cfg.decLineRate = some line → 0 < line * (s.cfg.decPixelsPerLine.toNat : Rat) →
    rndRat (line * (s.cfg.decPixelsPerLine.toNat : Rat)) = some pr →
    (mout : Int) = rhe ((xs.length : Rat) * pr / rate) → mout ≤ s.par.maxlen →
    ((∀ y ∈ numResample s.par xs rate pr mout, y.rnd.isSome = true) →
      ∃ (t : State) (out : List Rat), exec (.resamp d a) s = .next t
        ∧ Stores d (.signal { rate := pr, chan := chan, data := .real out }) s t
        ∧ t.fspec = s.fspec ∧ t.degen = s.degen
        ∧ out.length = mout
        ∧ ∀ (m : Nat) (y : Exact), (numResample s.par xs rate pr mout)[m]? = some y → out[m]? = y.rnd)
    ∧ ((∃ y ∈ numResample s.par xs rate pr mout, y.rnd = none) →
      ∃ t, exec (.resamp d a) s = .next t ∧ Fails (.resamp d a) .resamp .overflow s t)

/-- 46_pixel_resampler.md R251, checks 3 to 6 in their order, at stage RESAMP. -/
def Obligations.ResampChecksInOrder : Prop :=
  ∀ (d a : SlotIx) (s : State) (rate : Rat) (chan : BitVec 2) (xs : List Rat),
    (Instr.resamp d a).slotsExist s.par.nslot = true →
    slotAt s a = .valid (.signal { rate := rate, chan := chan, data := .real xs }) →
    (dec s.cfg.decLineRate = none →
      ∃ t, exec (.resamp d a) s = .next t ∧ Fails (.resamp d a) .resamp .cfgNonfinite s t)
    ∧ ∀ line, dec s.cfg.decLineRate = some line →
      (line * (s.cfg.decPixelsPerLine.toNat : Rat) ≤ 0 →
        ∃ t, exec (.resamp d a) s = .next t ∧ Fails (.resamp d a) .resamp .rateNonpos s t)
      ∧ (0 < line * (s.cfg.decPixelsPerLine.toNat : Rat) → rndRat (line * (s.cfg.decPixelsPerLine.toNat : Rat)) = none →
        ∃ t, exec (.resamp d a) s = .next t ∧ Fails (.resamp d a) .resamp .overflow s t)
      ∧ (∀ pr, 0 < line * (s.cfg.decPixelsPerLine.toNat : Rat) →
        rndRat (line * (s.cfg.decPixelsPerLine.toNat : Rat)) = some pr →
        (s.par.maxlen : Int) < rhe ((xs.length : Rat) * pr / rate) →
        ∃ t, exec (.resamp d a) s = .next t ∧ Fails (.resamp d a) .resamp .capacity s t)

/-! ### FIR_bandpass_filter -/

/-- 43_fir_bandpass.md R211, effect: when checks 1 to 6 pass, `FSPEC` holds the band edges, the rate of the buffer, the tap
count and `coef[k] = rnd(c[k])`, symmetric; no slot and no load is touched. That no coefficient overflows, as none of the
reference instance does, is left to the premise. -/
def Obligations.BpdesignStoresTheFilter : Prop :=
  ∀ (a : SlotIx) (s : State) (b : Signal) (low high : Rat),
    a.toNat < s.par.nslot → slotAt s a = .valid (.signal b) →
    dec s.cfg.fltBpLow = some low → dec s.cfg.fltBpHigh = some high →
    0 < low → low < high → high < b.rate / 2 →
    s.cfg.fltFirTaps.toNat % 2 = 1 → s.cfg.fltFirTaps.toNat ≤ s.par.maxtaps →
    (∀ c ∈ numBpdesign s.par low high b.rate s.cfg.fltFirTaps.toNat, c.rnd.isSome = true) →
    ∃ (t : State) (coef : List Rat), exec (.bpdesign a) s = .next t
      ∧ t.fspec = { valid := true, low := low, high := high, fs := b.rate, taps := s.cfg.fltFirTaps.toNat, coef := coef }
      ∧ coef.length = s.cfg.fltFirTaps.toNat ∧ coef.reverse = coef
      ∧ (∀ (k : Nat) (c : Exact), (numBpdesign s.par low high b.rate s.cfg.fltFirTaps.toNat)[k]? = some c → coef[k]? = c.rnd)
      ∧ OthersSame none s t ∧ LoadAfter none s t
      ∧ t.err = .ok ∧ t.sticky = s.sticky ∧ t.errInfo = s.errInfo ∧ t.degen = s.degen ∧ SameRest s t

/-- 43_fir_bandpass.md R211 checks 3 to 6, 45_channel_extractor.md R244 check 3: both commands that design a filter make
them in this order, at stage BPDESIGN, and a failure invalidates `FSPEC`. The last clause, the overflow of a coefficient at
stage BPDESIGN after every other check, is the model's reading of R17 and R285 (assumption log 6). -/
def Obligations.DesignChecksInOrder : Prop :=
  ∀ (i : Instr) (a : SlotIx) (s : State) (rate : Rat) (chan : BitVec 2) (data : Samples),
    (i = .bpdesign a ∨ (data.kind = .real ∧ ∃ d ch, i = .extract d a ch)) →
    i.slotsExist s.par.nslot = true →
    slotAt s a = .valid (.signal { rate := rate, chan := chan, data := data }) →
    ((dec s.cfg.fltBpLow = none ∨ dec s.cfg.fltBpHigh = none) →
      ∃ t, exec i s = .next t ∧ Fails i .bpdesign .cfgNonfinite s t)
    ∧ ∀ low high, dec s.cfg.fltBpLow = some low → dec s.cfg.fltBpHigh = some high →
      (¬ (0 < low ∧ low < high) → ∃ t, exec i s = .next t ∧ Fails i .bpdesign .bandOrder s t)
      ∧ (0 < low → low < high → rate / 2 ≤ high → ∃ t, exec i s = .next t ∧ Fails i .bpdesign .nyquist s t)
      ∧ (0 < low → low < high → high < rate / 2 →
          (s.cfg.fltFirTaps.toNat % 2 = 0 ∨ s.par.maxtaps < s.cfg.fltFirTaps.toNat) →
          ∃ t, exec i s = .next t ∧ Fails i .bpdesign .taps s t)
      ∧ (0 < low → low < high → high < rate / 2 →
          s.cfg.fltFirTaps.toNat % 2 = 1 → s.cfg.fltFirTaps.toNat ≤ s.par.maxtaps →
          (i = .bpdesign a ∨ s.cfg.fltFirTaps.toNat ≤ data.length) →
          (∃ c ∈ numBpdesign s.par low high rate s.cfg.fltFirTaps.toNat, c.rnd = none) →
          ∃ t, exec i s = .next t ∧ Fails i .bpdesign .overflow s t)

/-- 43_fir_bandpass.md R214, effect: `out[n] = rnd(Σ coef[k]·x[n+M-k])` with zero extension, each part of a COMPLEX buffer
separately; the output has the input's length, kind, rate and channel. -/
def Obligations.BpapplyConvolves : Prop :=
  ∀ (d a : SlotIx) (s : State) (b : Signal),
    (Instr.bpapply d a).slotsExist s.par.nslot = true → slotAt s a = .valid (.signal b) →
    s.fspec.valid = true → s.fspec.fs = b.rate → s.fspec.taps ≤ b.data.length →
    (partsFit b.data.length (fun x n => rndRat (convolution s.fspec.coef x n)) b.data = true →
      ∃ (t : State) (out : Samples), exec (.bpapply d a) s = .next t
        ∧ Stores d (.signal { rate := b.rate, chan := b.chan, data := out }) s t
        ∧ t.fspec = s.fspec ∧ t.degen = s.degen
        ∧ PartsRounded b.data.length (fun x n => rndRat (convolution s.fspec.coef x n)) b.data out)
    ∧ (partsFit b.data.length (fun x n => rndRat (convolution s.fspec.coef x n)) b.data = false →
      ∃ t, exec (.bpapply d a) s = .next t ∧ Fails (.bpapply d a) .bpapply .overflow s t)

/-- 43_fir_bandpass.md R214, checks 3 to 5 in their order: `NO_FILTER` at stage DECODE, the other two at stage BPAPPLY. -/
def Obligations.BpapplyChecksInOrder : Prop :=
  ∀ (d a : SlotIx) (s : State) (b : Signal),
    (Instr.bpapply d a).slotsExist s.par.nslot = true → slotAt s a = .valid (.signal b) →
    (s.fspec.valid = false → ∃ t, exec (.bpapply d a) s = .next t ∧ Fails (.bpapply d a) .decode .noFilter s t)
    ∧ (s.fspec.valid = true → s.fspec.fs ≠ b.rate →
        ∃ t, exec (.bpapply d a) s = .next t ∧ Fails (.bpapply d a) .bpapply .rateMismatch s t)
    ∧ (s.fspec.valid = true → s.fspec.fs = b.rate → b.data.length < s.fspec.taps →
        ∃ t, exec (.bpapply d a) s = .next t ∧ Fails (.bpapply d a) .bpapply .shortFilter s t)

/-! ### AGC_gain_control -/

/-- 44_agc.md R231, R232: with `e` the stored envelope, `out[n] = rnd(x[n]·g[n])` where
`g[n] = min(10, max(1/10, T / max(s[n], 10^-10)))` and `s[n]` is the median of the centred, zero-extended window of `W`
envelope values; a non-finite target and every overflow fail at stage AGC. -/
def Obligations.AgcScalesByTheClampedGain : Prop :=
  ∀ (d a : SlotIx) (s : State) (b : Signal),
    (Instr.agc d a).slotsExist s.par.nslot = true → slotAt s a = .valid (.signal b) →
    (dec s.cfg.agcTarget = none → ∃ t, exec (.agc d a) s = .next t ∧ Fails (.agc d a) .agc .cfgNonfinite s t)
    ∧ ∀ T, dec s.cfg.agcTarget = some T →
      (rndAll (envelope s.par b.data) = none →
        ∃ t, exec (.agc d a) s = .next t ∧ Fails (.agc d a) .agc .overflow s t)
      ∧ ∀ (e : List Rat) (g : Nat → Rat), rndAll (envelope s.par b.data) = some e →
        (∀ n, g n = min 10 (max (1 / 10) (T / max
          (median ((List.range (agcWindow e.length)).map fun j =>
            zext e ((n : Int) + (j : Int) - (((agcWindow e.length - 1) / 2 : Nat) : Int)))) (1 / 10 ^ 10)))) →
        (partsFit b.data.length (fun x n => rndRat (x.getD n 0 * g n)) b.data = true →
          ∃ (t : State) (out : Samples), exec (.agc d a) s = .next t
            ∧ Stores d (.signal { rate := b.rate, chan := b.chan, data := out }) s t
            ∧ t.fspec = s.fspec ∧ t.degen = s.degen
            ∧ PartsRounded b.data.length (fun x n => rndRat (x.getD n 0 * g n)) b.data out)
        ∧ (partsFit b.data.length (fun x n => rndRat (x.getD n 0 * g n)) b.data = false →
          ∃ t, exec (.agc d a) s = .next t ∧ Fails (.agc d a) .agc .overflow s t)

/-- 44_agc.md R235: for every input and every target each gain lies in `[1/10, 10]`, exactly. -/
def Obligations.AgcGainIsBounded : Prop :=
  ∀ (T : Rat) (e : List Rat), (agcGains T e).length = e.length ∧ ∀ g ∈ agcGains T e, 1 / 10 ≤ g ∧ g ≤ 10

/-- 44_agc.md R233: the median window: `W0 = max(3, floor(N/100))` made odd by adding 1, the ranges the rule lists, and the
centred, zero-extended reading of it. -/
def Obligations.AgcWindowFollowsTheRule : Prop :=
  (∀ n : Nat,
    (max 3 (n / 100) % 2 = 1 → agcWindow n = max 3 (n / 100))
    ∧ (max 3 (n / 100) % 2 = 0 → agcWindow n = max 3 (n / 100) + 1)
    ∧ (n < 400 → agcWindow n = 3) ∧ (400 ≤ n → n < 600 → agcWindow n = 5) ∧ (600 ≤ n → n < 800 → agcWindow n = 7)
    ∧ (300 ≤ n → agcWindow n = 2 * (n / 100 / 2) + 1)
    ∧ agcWindow n % 2 = 1 ∧ 3 ≤ agcWindow n)
  ∧ ∀ (e : List Rat) (n : Nat), agcSmoothed e n = median ((List.range (agcWindow e.length)).map fun j =>
      zext e ((n : Int) - (((agcWindow e.length - 1) / 2 : Nat) : Int) + (j : Int)))

/-- 00_scope.md R23: the median of an odd number of reals is the element at position `(W+1)/2`, from 1, of the ascending
arrangement. -/
def Obligations.MedianIsTheMiddleElement : Prop :=
  ∀ w l : List Rat, w.length % 2 = 1 → l.Perm w → l.Pairwise (· ≤ ·) → l[(w.length + 1) / 2 - 1]? = some (median w)

/-! ### channel_extractor -/

/-- 45_channel_extractor.md R241: `out[n] = rnd(x[n] - mu)` with `mu` the exact mean; an empty buffer gives an empty one; an
overflow fails at stage DCREM. -/
def Obligations.DcremSubtractsTheMean : Prop :=
  ∀ (d a : SlotIx) (s : State) (rate : Rat) (chan : BitVec 2) (xs : List Rat),
    (Instr.dcrem d a).slotsExist s.par.nslot = true →
    slotAt s a = .valid (.signal { rate := rate, chan := chan, data := .real xs }) →
    ((∀ x ∈ xs, (rndRat (x - xs.sum / xs.length)).isSome = true) →
      ∃ (t : State) (out : List Rat), exec (.dcrem d a) s = .next t
        ∧ Stores d (.signal { rate := rate, chan := chan, data := .real out }) s t
        ∧ t.fspec = s.fspec ∧ t.degen = s.degen
        ∧ out.length = xs.length
        ∧ ∀ (n : Nat) (x : Rat), xs[n]? = some x → out[n]? = rndRat (x - xs.sum / xs.length))
    ∧ ((∃ x ∈ xs, rndRat (x - xs.sum / xs.length) = none) →
      ∃ t, exec (.dcrem d a) s = .next t ∧ Fails (.dcrem d a) .dcrem .overflow s t)

/-- 45_channel_extractor.md R244, effect: with the rounded coefficients `coef`, the rounded filtered signal `y1` and the
rounded envelope `y2`, `out[n] = rnd(y2[n] - mean(y2))`, `FSPEC` holds the filter and the result carries `ch`. -/
def Obligations.ExtractFiltersDemodulatesAndCentres : Prop :=
  ∀ (d a : SlotIx) (ch : BitVec 2) (s : State) (rate : Rat) (chan : BitVec 2) (xs : List Rat)
    (low high : Rat) (coef y1 y2 out : List Rat),
    (Instr.extract d a ch).slotsExist s.par.nslot = true →
    slotAt s a = .valid (.signal { rate := rate, chan := chan, data := .real xs }) →
    dec s.cfg.fltBpLow = some low → dec s.cfg.fltBpHigh = some high →
    0 < low → low < high → high < rate / 2 →
    s.cfg.fltFirTaps.toNat % 2 = 1 → s.cfg.fltFirTaps.toNat ≤ s.par.maxtaps → s.cfg.fltFirTaps.toNat ≤ xs.length →
    (numBpdesign s.par low high rate s.cfg.fltFirTaps.toNat).map Exact.rnd = coef.map some →
    (List.range xs.length).map (fun n => rndRat (convolution coef xs n)) = y1.map some →
    (numHenv s.par y1).map Exact.rnd = y2.map some →
    y2.map (fun v => rndRat (v - y2.sum / y2.length)) = out.map some →
    ∃ t, exec (.extract d a ch) s = .next t
      ∧ Stores d (.signal { rate := rate, chan := ch, data := .real out }) s t
      ∧ t.fspec = { valid := true, low := low, high := high, fs := rate, taps := s.cfg.fltFirTaps.toNat, coef := coef }
      ∧ t.degen = s.degen

/-- 45_channel_extractor.md R244: `EXTRACT` succeeds exactly when the sequence `bpdesign bA; bpapply bU, bA; demod bV, bU;
dcrem bD, bV` does at every step, and then leaves the same filter and the same data in slot `D`, with the channel tag set
to `ch`. -/
def Obligations.ExtractEqualsTheFourCommands : Prop :=
  ∀ (d a u v : SlotIx) (ch : BitVec 2) (s s1 s2 s3 s4 t : State) (rate : Rat) (chan : BitVec 2) (xs : List Rat),
    d.toNat < s.par.nslot → a.toNat < s.par.nslot → u.toNat < s.par.nslot → v.toNat < s.par.nslot →
    slotAt s a = .valid (.signal { rate := rate, chan := chan, data := .real xs }) →
    exec (.bpdesign a) s = .next s1 → exec (.bpapply u a) s1 = .next s2 →
    exec (.demod v u) s2 = .next s3 → exec (.dcrem d v) s3 = .next s4 →
    exec (.extract d a ch) s = .next t →
    (t.err = .ok ↔ (s1.err = .ok ∧ s2.err = .ok ∧ s3.err = .ok ∧ s4.err = .ok))
    ∧ (t.err = .ok → t.fspec = s4.fspec
        ∧ ∃ (c : BitVec 2) (out : List Rat), slotAt s4 d = .valid (.signal { rate := rate, chan := c, data := .real out })
          ∧ slotAt t d = .valid (.signal { rate := rate, chan := ch, data := .real out }))

/-- 45_channel_extractor.md R244, check 4 and the overflow of the filtering and of the envelope: the stage reported is that
of the step that failed. When both fit, the command succeeds: the stored envelope is not negative, so removing its mean
never overflows. -/
def Obligations.ExtractReportsTheFailingStep : Prop :=
  ∀ (d a : SlotIx) (ch : BitVec 2) (s : State) (rate : Rat) (chan : BitVec 2) (xs : List Rat) (low high : Rat),
    (Instr.extract d a ch).slotsExist s.par.nslot = true →
    slotAt s a = .valid (.signal { rate := rate, chan := chan, data := .real xs }) →
    dec s.cfg.fltBpLow = some low → dec s.cfg.fltBpHigh = some high →
    0 < low → low < high → high < rate / 2 →
    s.cfg.fltFirTaps.toNat % 2 = 1 → s.cfg.fltFirTaps.toNat ≤ s.par.maxtaps →
    (xs.length < s.cfg.fltFirTaps.toNat →
      ∃ t, exec (.extract d a ch) s = .next t ∧ Fails (.extract d a ch) .bpapply .shortFilter s t)
    ∧ ∀ coef : List Rat, s.cfg.fltFirTaps.toNat ≤ xs.length →
      (numBpdesign s.par low high rate s.cfg.fltFirTaps.toNat).map Exact.rnd = coef.map some →
      ((∃ n, n < xs.length ∧ rndRat (convolution coef xs n) = none) →
        ∃ t, exec (.extract d a ch) s = .next t ∧ Fails (.extract d a ch) .bpapply .overflow s t)
      ∧ ∀ y1 : List Rat, (List.range xs.length).map (fun n => rndRat (convolution coef xs n)) = y1.map some →
        ((∃ v ∈ numHenv s.par y1, v.rnd = none) →
          ∃ t, exec (.extract d a ch) s = .next t ∧ Fails (.extract d a ch) .env .overflow s t)
        ∧ ((∀ v ∈ numHenv s.par y1, v.rnd.isSome = true) →
          ∃ t, exec (.extract d a ch) s = .next t ∧ t.err = .ok)

/-- 45_channel_extractor.md R243: the channel tag is metadata only: a command run on the state with every tag cleared gives
the same state but for the tags, and two channels given to `EXTRACT` give the same state but for the tag. -/
def Obligations.ChannelTagNeverReachesData : Prop :=
  (∀ (i : Instr) (s t : State), exec i s = .next t →
    ∃ t', exec i (eraseChans s) = .next t' ∧ eraseChans t' = eraseChans t)
  ∧ ∀ (d a : SlotIx) (c1 c2 : BitVec 2) (s t1 t2 : State),
    exec (.extract d a c1) s = .next t1 → exec (.extract d a c2) s = .next t2 → eraseChans t1 = eraseChans t2

/-! ### pixel_raster_formatter -/

/-- 47_raster_formatter.md R262, R263, R264: the first `rows·Wd` samples become the image, row-major; with `lo < hi` each
pixel is `floor((v-lo)·255/(hi-lo))`, which lies in 0..255, and `DEGEN` keeps its value; with `lo = hi` every pixel is 0 and
`DEGEN` is set; either way the command succeeds. -/
def Obligations.FormimgNormalisesTheTruncatedStream : Prop :=
  ∀ (d a : SlotIx) (c : BitVec 4) (s : State) (rate : Rat) (chan : BitVec 2) (xs : List Rat) (wd rows : Nat) (lo hi : Rat),
    (Instr.formimg d a c).slotsExist s.par.nslot = true →
    slotAt s a = .valid (.signal { rate := rate, chan := chan, data := .real xs }) →
    wd = s.cfg.decPixelsPerLine.toNat * c.toNat → 0 < wd → rows = xs.length / wd → 1 ≤ rows →
    lo ∈ xs.take (rows * wd) → (∀ v ∈ xs.take (rows * wd), lo ≤ v) →
    hi ∈ xs.take (rows * wd) → (∀ v ∈ xs.take (rows * wd), v ≤ hi) →
    ∃ (t : State) (pix : List Byte), exec (.formimg d a c) s = .next t
      ∧ Stores d (.image { rows := rows, width := wd, pix := pix }) s t
      ∧ t.fspec = s.fspec ∧ pix.length = rows * wd
      ∧ (lo < hi → t.degen = s.degen ∧
          ∀ (r col : Nat) (v : Rat), r < rows → col < wd → xs[r * wd + col]? = some v →
            ∃ z : Byte, pix[r * wd + col]? = some z ∧ (z.toNat : Int) = ((v - lo) * 255 / (hi - lo)).floor)
      ∧ (lo = hi → t.degen = true ∧ ∀ z ∈ pix, z = 0#8)

/-- 47_raster_formatter.md R261, checks 3 and 4 in their order, at stage FORMIMG. -/
def Obligations.FormimgChecksInOrder : Prop :=
  ∀ (d a : SlotIx) (c : BitVec 4) (s : State) (rate : Rat) (chan : BitVec 2) (xs : List Rat),
    (Instr.formimg d a c).slotsExist s.par.nslot = true →
    slotAt s a = .valid (.signal { rate := rate, chan := chan, data := .real xs }) →
    (s.cfg.decPixelsPerLine.toNat * c.toNat = 0 →
      ∃ t, exec (.formimg d a c) s = .next t ∧ Fails (.formimg d a c) .formimg .lineWidth s t)
    ∧ (0 < s.cfg.decPixelsPerLine.toNat * c.toNat → xs.length < s.cfg.decPixelsPerLine.toNat * c.toNat →
      ∃ t, exec (.formimg d a c) s = .next t ∧ Fails (.formimg d a c) .formimg .shortLine s t)

/-- 47_raster_formatter.md R265: normalising samples that are already integers in 0..255 with both 0 and 255 among them
gives them back; and a non-degenerate normalised image contains both 0 and 255. -/
def Obligations.NormalisationIsIdempotent : Prop :=
  (∀ used : List Rat, (∀ v ∈ used, ∃ k : Nat, k ≤ 255 ∧ v = k) → (0 : Rat) ∈ used → (255 : Rat) ∈ used →
    (rasterPixels used).map (fun p => (p.toNat : Rat)) = used)
  ∧ ∀ used : List Rat, (∃ u ∈ used, ∃ v ∈ used, u < v) → 0#8 ∈ rasterPixels used ∧ 255#8 ∈ rasterPixels used

/-- 47_raster_formatter.md R267: two images of one shape give the floor of the average of each pair of pixels, without
wrap-around, and `DEGEN` is not touched; two of different shapes fail with `SHAPE_MISMATCH` at stage COMBINE. -/
def Obligations.CombineAveragesTwoImages : Prop :=
  ∀ (d a b : SlotIx) (s : State) (p q : Image),
    (Instr.combine d a b).slotsExist s.par.nslot = true →
    slotAt s a = .valid (.image p) → slotAt s b = .valid (.image q) →
    (p.rows = q.rows → p.width = q.width → p.pix.length = q.pix.length →
      ∃ (t : State) (pix : List Byte), exec (.combine d a b) s = .next t
        ∧ Stores d (.image { rows := p.rows, width := p.width, pix := pix }) s t
        ∧ t.fspec = s.fspec ∧ t.degen = s.degen ∧ pix.length = p.pix.length
        ∧ ∀ (n : Nat) (x y : Byte), p.pix[n]? = some x → q.pix[n]? = some y →
            ∃ z : Byte, pix[n]? = some z ∧ z.toNat = (x.toNat + y.toNat) / 2)
    ∧ ((p.rows ≠ q.rows ∨ p.width ≠ q.width) →
      ∃ t, exec (.combine d a b) s = .next t ∧ Fails (.combine d a b) .combine .shapeMismatch s t)

/-! ### Frames and whole-machine rules -/

/-- The frame of every command (10_state.md R54, R55, R72, R74; 40_buffer_commands.md R179; 60_exceptions.md R284): no
configuration register, no pointer, no slot but the destination (for a `BCLOSE` with `OPENV = 1`, the OPEN slot) changes;
`FSPEC` only by the two designing commands; `DEGEN` only, to 1, by `FORMIMG`; the load port is left as it is, or released
when the destination is the slot being loaded, but by a `BOPEN` or `BCLOSE` that succeeds; a command that names a slot that
does not exist leaves it alone; and a success leaves `STICKY` and `ERRINFO` alone. The block has no memory that commands
address. -/
def Obligations.CommandsLeaveTheRestAlone : Prop :=
  ∀ (i : Instr) (s t : State), exec i s = .next t →
    SameRest s t
    ∧ (∀ j, i.dst ≠ some j → ¬ (i = .bclose ∧ s.openV = true ∧ j = s.openSlot) → slotAt t j = slotAt s j)
    ∧ (i.designsFilter = false → t.fspec = s.fspec)
    ∧ (t.degen = s.degen ∨ (t.degen = true ∧ ∃ d a c, i = .formimg d a c))
    ∧ (i.slotsExist s.par.nslot = true → ¬ (t.err = .ok ∧ ∃ d k, i = .bopen d k) → ¬ (t.err = .ok ∧ i = .bclose) →
        LoadAfter i.dst s t)
    ∧ (i.slotsExist s.par.nslot = false → LoadAfter none s t)
    ∧ (t.err = .ok → t.sticky = s.sticky ∧ t.errInfo = s.errInfo)

/-- 60_exceptions.md R284, R289: a command that ends with a non-zero class has had exactly the effects of a failure: those of
(a) when a slot field names no slot, otherwise those of (b), with the class of the reason reported. -/
def Obligations.FailuresHaveExactlyTheirEffects : Prop :=
  ∀ (i : Instr) (s t : State), exec i s = .next t → t.err ≠ .ok →
    (i.slotsExist s.par.nslot = false ∧ FailsDecode i.op.code .badSlot s t)
    ∨ (i.slotsExist s.par.nslot = true ∧ ∃ stage reason, reason ≠ .none ∧ Fails i stage reason s t)

/-- 10_state.md R58, 60_exceptions.md R286: no command reads `ERR`, `STICKY`, `DEGEN` or `ERRINFO`: run on a state that
differs only in them, it leaves the same slots, filter, load port and error class. -/
def Obligations.CommandsReadNoStatus : Prop :=
  ∀ (i : Instr) (s t : State) (e : ErrClass) (st dg : Bool) (info : ErrInfo), exec i s = .next t →
    ∃ t', exec i { s with err := e, sticky := st, degen := dg, errInfo := info } = .next t'
      ∧ t'.slots = t.slots ∧ t'.fspec = t.fspec
      ∧ t'.openV = t.openV ∧ t'.openSlot = t.openSlot ∧ t'.wpend = t.wpend
      ∧ t'.err = t.err ∧ (t.err ≠ .ok → t'.errInfo = t.errInfo)

/-- 70_reset_and_hazards.md R332: `STICKY` and `DEGEN` are never cleared by the block: a step clears one only if it serves a
write to `STATUS` with that bit 1, or the reset input; the write 0x00000110 clears both. -/
def Obligations.StickyFlagsBelongToTheHost : Prop :=
  (∀ s t : State, step s = .next t →
    (s.sticky = true → t.sticky = false → ∃ rest, s.pending = .reset :: rest
      ∨ ∃ w : Word, s.pending = .regWrite Reg.status.index w :: rest ∧ w.getLsbD 4 = true)
    ∧ (s.degen = true → t.degen = false → ∃ rest, s.pending = .reset :: rest
      ∨ ∃ w : Word, s.pending = .regWrite Reg.status.index w :: rest ∧ w.getLsbD 8 = true))
  ∧ ∀ (s : State) (rest : List HostInput), s.pending = .regWrite Reg.status.index 0x00000110#32 :: rest →
    step s = .next { s with pending := rest, sticky := false, degen := false }

/-- 10_state.md R58, "Who writes ERR": a `CMD` write sets `ERR` to its outcome, a failed `WDATA` write sets it non-zero, and
every other access leaves it alone, as does a `WDATA` write that raises nothing. -/
def Obligations.ErrIsWrittenByCommandsAndFailedLoads : Prop :=
  ∀ (s t : State) (x : HostInput) (rest : List HostInput), s.pending = x :: rest → step s = .next t → x ≠ .reset →
    (∀ w : Word, x ≠ .regWrite Reg.cmd.index w) → t.err ≠ s.err →
    t.err ≠ .ok ∧ t.sticky = true ∧ ∃ w : Word, x = .regWrite Reg.wdata.index w ∧ t.errInfo.opc = 0xFF#8

/-- The invariant (00_scope.md R7, R14, R17; 10_state.md R52, R53, R56, R71): every stored value is in `F`, every rate is
positive, lengths stay within `MAXLEN`, images and filters have their shape, and the load port is coherent. A step keeps
it, from every state that has it. -/
def Obligations.StepKeepsTheInvariant : Prop :=
  ∀ s t : State, Inv s → step s = .next t → Inv t

/-- The invariant holds of the reset state of every block whose parameters meet 00_scope.md R7, the reference one among
them. -/
def Obligations.InvariantHoldsAtReset : Prop :=
  (∀ p : Config.Params, p.ok = true → Inv (State.resetWith p)) ∧ Inv State.reset

/-- 10_state.md R77, 70_reset_and_hazards.md R320, R321: the reset input leaves every piece of state at its reset value, from
any state, and does not change the parameters; `State.reset` has those values. -/
def Obligations.ResetGivesTheListedValues : Prop :=
  AtReset State.reset
  ∧ ∀ (s : State) (rest : List HostInput), s.pending = .reset :: rest →
    ∃ t, step s = .next t ∧ AtReset t ∧ t.par = s.par

/-! ### Registers and ports -/

/-- 10_state.md R61 to R70 (section 6): a configuration register holds whatever 32 bits are written to it, and its write
changes nothing else the host can read and no other state. R72, R74: `RSEL` keeps the four low bits, the others reading 0,
and its write zeroes `RPTR`; `RPTR` and `FSPTR` hold the 32 bits written; nothing else changes. -/
def Obligations.ConfigurationRegistersHoldWhatIsWritten : Prop :=
  (∀ (r : Reg) (w : Word) (s : State),
    r ∈ [Reg.sdrSampleRate, .decCarrierFreq, .decLineRate, .decPixelsPerLine, .decAudioRate, .fltBpLow, .fltBpHigh,
      .fltFirTaps, .fltOrder, .agcTarget] →
    ∃ t, serve (.regWrite r.index w) s = .next t ∧ (readReg r t).1 = w
      ∧ (∀ r', r' ≠ r → (readReg r' t).1 = (readReg r' s).1) ∧ { t with cfg := s.cfg } = s)
  ∧ ∀ (w : Word) (s : State),
    (∃ t, serve (.regWrite Reg.rsel.index w) s = .next t ∧ t.rsel = w.extractLsb' 0 4 ∧ t.rptr = 0#32
      ∧ (∀ i, (readReg .rsel t).1.getLsbD i = (decide (i < 4) && w.getLsbD i))
      ∧ { t with rsel := s.rsel, rptr := s.rptr } = s)
    ∧ (∃ t, serve (.regWrite Reg.rptr.index w) s = .next t ∧ t.rptr = w ∧ (readReg .rptr t).1 = w
      ∧ { t with rptr := s.rptr } = s)
    ∧ (∃ t, serve (.regWrite Reg.fsptr.index w) s = .next t ∧ t.fsptr = w ∧ (readReg .fsptr t).1 = w
      ∧ { t with fsptr := s.fsptr } = s)

/-- 20_memory.md R104: the reserved offsets are 0x3C, 0x48, 0x4C and 0x88 to 0xFC; they read 0 and ignore writes, raise no
error and change no state; a write to a read-only register is ignored the same way. -/
def Obligations.ReservedAndReadOnlyOffsetsIgnoreWrites : Prop :=
  (∀ ix : RegIx, Reg.atIndex ix = none ↔ (4 * ix.toNat = 0x3C ∨ 4 * ix.toNat = 0x48 ∨ 4 * ix.toNat = 0x4C
    ∨ 0x88 ≤ 4 * ix.toNat))
  ∧ (∀ (ix : RegIx) (w : Word) (s : State), Reg.atIndex ix = none →
    serve (.regWrite ix w) s = .next s ∧ serve (.regRead ix) s = .next { s with readBack := s.readBack ++ [0#32] })
  ∧ ∀ (r : Reg) (w : Word) (s : State), r.access = .ro → serve (.regWrite r.index w) s = .next s

/-- 20_memory.md R109: a read appends one word to the read-back and changes nothing else, but that `RDATA` may advance `RPTR`
and `FSDATA` may advance `FSPTR`; the write-only registers read 0. What the registers that no other statement speaks of
read: `ID` (10_state.md R60), `FLT_CTRL` (R68), `RSEL`, `RPTR`, `FSPTR`, `OPENINFO` (R71), and the five views of the
selected slot (R73); the lengths for what fits a register, so that assumption log 7 is not in play. -/
def Obligations.ReadsOnlyAdvanceTheirPointer : Prop :=
  (∀ (r : Reg) (s : State), ∃ t w, serve (.regRead r.index) s = .next t ∧ t.readBack = s.readBack ++ [w]
    ∧ w = (readReg r s).1
    ∧ (r.access = .wo → w = 0#32)
    ∧ { t with readBack := s.readBack, rptr := s.rptr, fsptr := s.fsptr } = s
    ∧ (r ≠ .rdata → t.rptr = s.rptr) ∧ (r ≠ .fsdata → t.fsptr = s.fsptr))
  ∧ ∀ s : State,
    (readReg .id s).1 = s.par.idValue ∧ (readReg .fltCtrl s).1 = 1#32
    ∧ (readReg .rptr s).1 = s.rptr ∧ (readReg .fsptr s).1 = s.fsptr ∧ (readReg .rsel s).1.toNat = s.rsel.toNat
    ∧ (∀ i, i < 32 → (readReg .openinfo s).1.getLsbD i =
        (if i < 4 then s.openV && s.openSlot.getLsbD i else if i = 30 then s.wpend.isSome else if i = 31 then s.openV else false))
    ∧ (slotAt s s.rsel = .empty → ∀ r ∈ [Reg.rinfo, .rlen, .rrate, .rrows, .rwidth], (readReg r s).1 = 0#32)
    ∧ (∀ b : Signal, (slotAt s s.rsel = .opened b ∨ slotAt s s.rsel = .valid (.signal b)) →
        (readReg .rinfo s).1.toNat = (if slotAt s s.rsel = .opened b then 1 else 2)
          + 16 * (if b.data.kind = .complex then 1 else 0) + 256 * b.chan.toNat
        ∧ (b.data.length < 2 ^ 32 → (readReg .rlen s).1.toNat = b.data.length)
        ∧ (readReg .rrate s).1 = enc b.rate ∧ (readReg .rrows s).1 = 0#32 ∧ (readReg .rwidth s).1 = 0#32)
    ∧ (∀ im : Image, slotAt s s.rsel = .valid (.image im) →
        (readReg .rinfo s).1 = 0x00000022#32 ∧ (readReg .rrate s).1 = 0#32
        ∧ (im.rows * im.width < 2 ^ 32 → (readReg .rlen s).1.toNat = im.rows * im.width)
        ∧ (im.rows < 2 ^ 32 → (readReg .rrows s).1.toNat = im.rows)
        ∧ (im.width < 2 ^ 32 → (readReg .rwidth s).1.toNat = im.width))

/-- 10_state.md R58, R59: the bits of `STATUS` and of `ERRINFO`; 60_exceptions.md R281, R283, R285: the numbers of the
classes, the reasons and the stages in them, and the class of each reason by its range; and the effect of a host write to
`STATUS`: for each of bits 4 and 8, writing 1 clears it and writing 0 leaves it, and no other bit or register is affected. -/
def Obligations.StatusBitsAndTheirClearing : Prop :=
  (∀ (s : State) (i : Nat), i < 32 → (readReg .status s).1.getLsbD i =
    (if i < 3 then s.err.code.getLsbD i else if i = 4 then s.sticky else if i = 8 then s.degen
      else if i = 12 then s.openV else if i = 16 then s.fspec.valid else false))
  ∧ (∀ (s : State) (i : Nat), i < 32 → (readReg .errinfo s).1.getLsbD i =
    (if i < 8 then s.errInfo.opc.getLsbD i else if 8 ≤ i ∧ i < 12 then s.errInfo.stage.code.getLsbD (i - 8)
      else if 16 ≤ i ∧ i < 24 then s.errInfo.reason.code.getLsbD (i - 16) else false))
  ∧ [ErrClass.ok, .configuration, .insufficientData, .numericRange, .illegalCommand, .capacity].map (·.code.toNat)
      = [0, 1, 2, 3, 4, 5]
  ∧ [Stage.decode, .buffer, .env, .decim, .bpdesign, .bpapply, .agc, .dcrem, .resamp, .formimg, .combine].map (·.code.toNat)
      = [0, 1, 2, 3, 4, 5, 6, 7, 8, 9, 10]
  ∧ [Reason.none, .rateNonpos, .bandOrder, .nyquist, .taps, .decimLt1, .rateMismatch, .shapeMismatch, .lineWidth,
      .cfgNonfinite].map (·.code.toNat) = [0, 1, 2, 3, 4, 5, 6, 7, 8, 9]
  ∧ [Reason.shortFilter, .shortDecim, .shortLine, .oddWords, .nonfiniteInput, .overflow].map (·.code.toNat)
      = [16, 17, 18, 19, 24, 25]
  ∧ [Reason.reservedOpcode, .reservedField, .badSlot, .slotState, .kind, .noFilter, .portClosed, .capacity].map
      (·.code.toNat) = [32, 33, 34, 35, 36, 37, 38, 40]
  ∧ (∀ r : Reason, r.errClass =
      if r.code.toNat = 0 then .ok else if r.code.toNat < 16 then .configuration
      else if r.code.toNat < 24 then .insufficientData else if r.code.toNat < 32 then .numericRange
      else if r.code.toNat < 40 then .illegalCommand else .capacity)
  ∧ ∀ (s : State) (w : Word), ∃ t, serve (.regWrite Reg.status.index w) s = .next t
    ∧ t.sticky = (if w.getLsbD 4 = true then false else s.sticky)
    ∧ t.degen = (if w.getLsbD 8 = true then false else s.degen)
    ∧ { t with sticky := s.sticky, degen := s.degen } = s

/-- 40_buffer_commands.md R176: a `WDATA` write with the port closed, with a non-finite word, to a full buffer, and the three
ways it succeeds. -/
def Obligations.WdataWriteFollowsItsRule : Prop :=
  ∀ (w : Word) (s : State),
    (s.openV = false → serve (.regWrite Reg.wdata.index w) s = .next
      { s with err := .illegalCommand, sticky := true, errInfo := { opc := 0xFF#8, stage := .buffer, reason := .portClosed } })
    ∧ ∀ (b : Signal), s.openV = true → slotAt s s.openSlot = .opened b →
      (dec w = none → ∃ t, serve (.regWrite Reg.wdata.index w) s = .next t ∧ LoadAborted .nonfiniteInput s t)
      ∧ ∀ v, dec w = some v →
        (∀ xs, b.data = .real xs → s.wpend = none →
          (s.par.maxlen ≤ xs.length →
            ∃ t, serve (.regWrite Reg.wdata.index w) s = .next t ∧ LoadAborted .capacity s t)
          ∧ (xs.length < s.par.maxlen → ∃ t, serve (.regWrite Reg.wdata.index w) s = .next t
            ∧ LoadGrows { b with data := .real (xs ++ [v]) } none s t))
        ∧ ∀ zs, b.data = .complex zs →
          (s.wpend = none → s.par.maxlen ≤ zs.length →
            ∃ t, serve (.regWrite Reg.wdata.index w) s = .next t ∧ LoadAborted .capacity s t)
          ∧ (s.wpend = none → zs.length < s.par.maxlen →
            ∃ t, serve (.regWrite Reg.wdata.index w) s = .next t ∧ LoadGrows b (some v) s t)
          ∧ (∀ re, s.wpend = some re → ∃ t, serve (.regWrite Reg.wdata.index w) s = .next t
            ∧ LoadGrows { b with data := .complex (zs ++ [(re, v)]) } none s t)

/-- 40_buffer_commands.md R177: the word view of a slot, for each content it can have. -/
def Obligations.WordViewOfASlot : Prop :=
  ∀ s : State, ∀ i : SlotIx,
    (s.par.nslot ≤ i.toNat → (slotAt s i).words = [])
    ∧ (slotAt s i = .empty → (slotAt s i).words = [])
    ∧ (∀ b, (slotAt s i = .opened b ∨ slotAt s i = .valid (.signal b)) →
      (∀ xs : List Rat, b.data = .real xs → (slotAt s i).words.length = xs.length
        ∧ ∀ (n : Nat) (x : Rat), xs[n]? = some x → (slotAt s i).words[n]? = some (enc x))
      ∧ (∀ zs : List (Rat × Rat), b.data = .complex zs → (slotAt s i).words.length = 2 * zs.length
        ∧ ∀ (n : Nat) (z : Rat × Rat), zs[n]? = some z →
          (slotAt s i).words[2 * n]? = some (enc z.1) ∧ (slotAt s i).words[2 * n + 1]? = some (enc z.2)))
    ∧ (∀ im, slotAt s i = .valid (.image im) → (slotAt s i).words.length = im.pix.length
      ∧ ∀ (n : Nat) (p : Byte), im.pix[n]? = some p → (slotAt s i).words[n]? = some (p.setWidth 32))

/-- 40_buffer_commands.md R178: a read of `RDATA` returns the next word of the selected slot and advances `RPTR`, or returns 0
and leaves it; it changes nothing else. That the advance is modulo 2^32, which only a slot of at least that many words can
show, is the model's choice (assumption log 7). -/
def Obligations.RdataReturnsTheNextWord : Prop :=
  ∀ s : State,
    (∀ w, (slotAt s s.rsel).words[s.rptr.toNat]? = some w →
      serve (.regRead Reg.rdata.index) s = .next { s with rptr := s.rptr + 1#32, readBack := s.readBack ++ [w] })
    ∧ ((slotAt s s.rsel).words.length ≤ s.rptr.toNat →
      serve (.regRead Reg.rdata.index) s = .next { s with readBack := s.readBack ++ [0#32] })

/-- 10_state.md R74: the views of `FSPEC` read 0 while `valid = 0`; `FSDATA` returns the next coefficient and advances `FSPTR`,
or returns 0 and leaves it. That the advance is modulo 2^32, which only a tap count above `MAXTAPS` could show, is the
model's choice (assumption log 7). -/
def Obligations.FilterViewsAndFsdata : Prop :=
  ∀ s : State,
    (s.fspec.valid = false → ∀ r ∈ [Reg.fsinfo, .fsrate, .fslow, .fshigh, .fsdata], (readReg r s).1 = 0#32)
    ∧ (s.fspec.valid = true → s.fspec.taps < 2 ^ 16 →
      (readReg .fsinfo s).1 = 0x80000000#32 + BitVec.ofNat 32 s.fspec.taps
      ∧ (readReg .fsrate s).1 = enc s.fspec.fs ∧ (readReg .fslow s).1 = enc s.fspec.low
      ∧ (readReg .fshigh s).1 = enc s.fspec.high)
    ∧ (∀ c, s.fspec.valid = true → s.fsptr.toNat < s.fspec.taps → s.fspec.coef[s.fsptr.toNat]? = some c →
      serve (.regRead Reg.fsdata.index) s = .next { s with fsptr := s.fsptr + 1#32, readBack := s.readBack ++ [enc c] })
    ∧ ((s.fspec.valid = false ∨ s.fspec.taps ≤ s.fsptr.toNat) →
      serve (.regRead Reg.fsdata.index) s = .next { s with readBack := s.readBack ++ [0#32] })

/-! ### Numbers -/

/-- 00_scope.md R15: `rnd` overflows exactly from `(2 - 2^-24)·2^127` on; otherwise it gives the element of `F` nearest to
`v`, on a tie the one with the even significand; it is the identity on `F`, monotone and odd. -/
def Obligations.RndIsRoundToNearestEven : Prop :=
  (∀ v : Rat, rndRat v = none ↔ (2 - 1 / 2 ^ 24) * 2 ^ 127 ≤ |v|)
  ∧ (∀ v r : Rat, rndRat v = some r → isF r = true ∧ ∀ f : Rat, isF f = true →
      |v - r| ≤ |v - f| ∧ (f ≠ r → |v - f| = |v - r| → (r / pow2 (ulpExp r)).floor % 2 = 0))
  ∧ (∀ v : Rat, isF v = true → rndRat v = some v)
  ∧ (∀ u v p q : Rat, u ≤ v → rndRat u = some p → rndRat v = some q → p ≤ q)
  ∧ ∀ v : Rat, rndRat (-v) = (rndRat v).map (fun r => -r)

/-- 00_scope.md R15, R25: the rounding of a magnitude is exact: `rndRoot q` overflows exactly when the real root of `q` does,
and otherwise is the element of `F` nearest to it, ties to even. -/
def Obligations.RootIsRoundedExactly : Prop :=
  ∀ q : Rat, 0 ≤ q →
    (rndRoot q = none ↔ ((2 - 1 / 2 ^ 24) * 2 ^ 127 : ℝ) ≤ Real.sqrt (q : ℝ))
    ∧ ∀ r : Rat, rndRoot q = some r → isF r = true ∧ 0 ≤ r ∧ ∀ f : Rat, isF f = true →
      |Real.sqrt (q : ℝ) - (r : ℝ)| ≤ |Real.sqrt (q : ℝ) - (f : ℝ)|
      ∧ (f ≠ r → |Real.sqrt (q : ℝ) - (f : ℝ)| = |Real.sqrt (q : ℝ) - (r : ℝ)| →
          (r / pow2 (ulpExp r)).floor % 2 = 0)

/-- 00_scope.md R16: the binary32 layout of `dec`, and `dec(enc(v)) = v` on `F`; only finite values are decoded, to elements
of `F`; both zeros are 0. -/
def Obligations.WordsEncodeExactlyTheElements : Prop :=
  (∀ w : Word, dec w =
    if w.extractLsb' 23 8 = 255#8 then none
    else some ((if w.getLsbD 31 = true then -1 else 1)
      * (if w.extractLsb' 23 8 = 0#8 then ((w.extractLsb' 0 23).toNat : Rat) * (2 : Rat) ^ (-149 : Int)
         else ((2 ^ 23 + (w.extractLsb' 0 23).toNat : Nat) : Rat)
          * (2 : Rat) ^ (((w.extractLsb' 23 8).toNat : Int) - 150))))
  ∧ (∀ v : Rat, isF v = true → dec (enc v) = some v)
  ∧ (∀ (w : Word) (v : Rat), dec w = some v → isF v = true)
  ∧ enc 0 = 0x00000000#32 ∧ dec 0x80000000#32 = some 0
  ∧ enc 1 = 0x3F800000#32 ∧ enc (-5) = 0xC0A00000#32 ∧ enc 20800 = 0x46A28000#32

/-- 00_scope.md R30: the properties every instance of `NUM` has: lengths, signs (no rounded envelope value is
negative) and symmetry. -/
def Obligations.NumPrimitivesKeepTheirContracts : Prop :=
  ∀ p : Config.Params,
    (∀ x : List Rat, (numHenv p x).length = x.length ∧ ∀ v ∈ numHenv p x, ∀ r, v.rnd = some r → 0 ≤ r)
    ∧ (∀ low high fs taps, (numBpdesign p low high fs taps).length = taps
      ∧ (numBpdesign p low high fs taps).reverse = numBpdesign p low high fs taps)
    ∧ (∀ q, (numAntialias p q).u.length % 2 = 1 ∧ (numAntialias p q).u.reverse = (numAntialias p q).u)
    ∧ (∀ x fs pr mout, (numResample p x fs pr mout).length = mout)

/-- 20_memory.md R106: byte `i` of a word on a byte-addressed bus is its bits `8i+7:8i`, and the words of a sample file are its
bytes taken four at a time, the first the least significant. -/
def Obligations.BytesAreLittleEndian : Prop :=
  (∀ (w : Word) (i j : Nat), i < 4 → j < 8 → (wordByte w i).getLsbD j = w.getLsbD (8 * i + j))
  ∧ (∀ ws : List Word,
      fileWords (ws.flatMap fun w => [wordByte w 0, wordByte w 1, wordByte w 2, wordByte w 3]) = ws)
  ∧ fileWords [0x00#8, 0x00#8, 0x80#8, 0x3F#8] = [0x3F800000#32] ∧ dec 0x3F800000#32 = some 1
end

