-- ==== Sys2Proof/Laws/Numerics.lean ====
section
/-! SUPPORT. The number operations: what `rndAll` and `mapParts` give, and the sums. -/

namespace Sys2Proof.Machine

@[simp] theorem rndAll_nil : rndAll [] = some [] := rfl

/-- `rndAll` answers exactly the list of the rounded values, when none of them overflows. -/
theorem rndAll_eq_some_iff (vs : List Exact) (rs : List Rat) :
    rndAll vs = some rs ↔ vs.map Exact.rnd = rs.map some := by
  induction vs generalizing rs with
  | nil => cases rs <;> simp
  | cons v vs ih =>
    cases hv : v.rnd with
    | none => cases rs <;> simp [rndAll, hv]
    | some r =>
      cases hr : rndAll vs with
      | none =>
        cases rs with
        | nil => simp [rndAll, hv, hr]
        | cons q qs => simpa [rndAll, hv, hr] using fun _ h => by simp [(ih qs).mpr h] at hr
      | some us =>
        have hus := (ih us).mp hr
        cases rs with
        | nil => simp [rndAll, hv, hr]
        | cons q qs =>
          have : us = qs ↔ vs.map Exact.rnd = qs.map some := by
            rw [hus]
            exact ⟨fun h => h ▸ rfl, fun h => (List.map_inj_right (fun _ _ => Option.some.inj)).mp h⟩
          simp [rndAll, hv, hr, this]

/-- `rndAll` overflows exactly when one of its values does. -/
theorem rndAll_eq_none_iff (vs : List Exact) : rndAll vs = none ↔ ∃ v ∈ vs, v.rnd = none := by
  induction vs with
  | nil => simp
  | cons v vs ih =>
    cases hv : v.rnd with
    | none => simp [rndAll, hv]
    | some r =>
      cases hr : rndAll vs with
      | none => simpa [rndAll, hv, hr] using ih.mp hr
      | some us =>
        have : ¬ ∃ u ∈ vs, u.rnd = none := fun h => by simp [ih.mpr h] at hr
        simpa [rndAll, hv, hr] using this

theorem rndAll_length {vs : List Exact} {rs : List Rat} (h : rndAll vs = some rs) : rs.length = vs.length := by
  simpa using (congrArg List.length ((rndAll_eq_some_iff vs rs).mp h)).symm

theorem rndAll_getElem? {vs : List Exact} {rs : List Rat} (h : rndAll vs = some rs) (n : Nat) :
    (vs[n]?).map Exact.rnd = (rs[n]?).map some := by
  have := congrArg (fun l => l[n]?) ((rndAll_eq_some_iff vs rs).mp h)
  simpa using this

theorem rndRats_length {vs rs : List Rat} (h : rndRats vs = some rs) : rs.length = vs.length := by
  simpa using rndAll_length h

/-- The model's sum is the library's. -/
theorem sumR_eq_sum (x : List Rat) : sumR x = x.sum := by
  simp [sumR, List.sum_eq_foldl]

@[simp] theorem same_length (x h : List Rat) : (same x h).length = x.length := by simp [same]

@[simp] theorem mirrored_length {α : Type} (n : Nat) (f : Nat → α) : (mirrored n f).length = n := by simp [mirrored]

/-- What `mapParts` answers, by the kind of the data. -/
theorem mapParts_cases {f : List Rat → Option (List Rat)} {x y : Samples} (h : mapParts f x = some y) :
    (∃ xs ys, x = .real xs ∧ f xs = some ys ∧ y = .real ys)
    ∨ ∃ zs re im, x = .complex zs ∧ f (zs.map (·.1)) = some re ∧ f (zs.map (·.2)) = some im ∧ y = .complex (re.zip im) := by
  cases x with
  | real xs =>
    simp only [mapParts, Option.map_eq_some_iff] at h
    obtain ⟨ys, h1, h2⟩ := h
    exact .inl ⟨xs, ys, rfl, h1, h2.symm⟩
  | complex zs =>
    simp only [mapParts] at h
    split at h
    · rename_i re im hre him
      exact .inr ⟨zs, re, im, rfl, hre, him, by simpa using h.symm⟩
    · cases h

theorem mapParts_kind {f : List Rat → Option (List Rat)} {x y : Samples} (h : mapParts f x = some y) :
    y.kind = x.kind := by
  obtain ⟨xs, ys, rfl, -, rfl⟩ | ⟨zs, re, im, rfl, -, -, rfl⟩ := mapParts_cases h <;> rfl

/-- A mirrored sequence is its own reverse. -/
theorem mirrored_reverse {α : Type} (n : Nat) (f : Nat → α) : (mirrored n f).reverse = mirrored n f := by
  apply List.ext_getElem
  · simp [mirrored]
  · intro k h1 h2
    simp only [mirrored, List.length_reverse, List.length_map, List.length_range] at h1 h2
    simp only [mirrored, List.getElem_reverse, List.length_map, List.length_range, List.getElem_map, List.getElem_range]
    congr 1
    omega

/-- Everything `settle` can answer: the rounding of an end of an enclosure whose ends round alike; the rounding of a
boundary the real is known to lie on; or, the precision exhausted, that of a free value. -/
theorem settle_cases (enclose : Nat → Option (Rat × Rat)) (round : Rat → Option Rat) (isAt : Rat → Bool) (fuel p : Nat) :
    (∃ q lo hi, enclose q = some (lo, hi) ∧ sameCell round lo hi = true
      ∧ settle enclose round isAt fuel p = round lo)
    ∨ (∃ m, isAt m = true ∧ settle enclose round isAt fuel p = rndRat m)
    ∨ ∃ v, settle enclose round isAt fuel p = round v := by
  induction fuel generalizing p with
  | zero =>
    right; right
    unfold settle
    split <;> exact ⟨_, rfl⟩
  | succ fuel ih =>
    unfold settle
    split
    · exact ih (2 * p)
    · rename_i lo hi he
      split
      · rename_i hc; exact .inl ⟨p, lo, hi, he, hc, rfl⟩
      · split
        · rename_i hm; exact .inr (.inl ⟨_, hm, rfl⟩)
        · exact ih (2 * p)

/-- Whatever `settle` answers, some value is rounded by `round` or by `rndRat`. -/
theorem settle_rounds (enclose : Nat → Option (Rat × Rat)) (round : Rat → Option Rat) (isAt : Rat → Bool) (fuel p : Nat) :
    ∃ v, settle enclose round isAt fuel p = round v ∨ settle enclose round isAt fuel p = rndRat v := by
  obtain ⟨-, lo, -, -, -, h⟩ | ⟨m, -, h⟩ | ⟨v, h⟩ := settle_cases enclose round isAt fuel p
  · exact ⟨lo, .inl h⟩
  · exact ⟨m, .inr h⟩
  · exact ⟨v, .inl h⟩

/-- Every rounding is that of some rational, or of the root of one. -/
theorem Exact.rnd_eq (e : Exact) : ∃ v, e.rnd = rndRat v ∨ e.rnd = rndRoot v := by
  cases e with
  | rat v => exact ⟨v, .inl rfl⟩
  | root q => exact ⟨q, .inr rfl⟩
  | analytic x n =>
    obtain ⟨v, h⟩ := settle_rounds (fun p => some (analyticEnclose p x n)) rndRoot
      (fun m => rootsSumVanishes x.length ((0, -(m * m)) :: squaredModulus x.length (analyticSum x n))) (analyticFuel x) 128
    exact ⟨v, h.symm⟩
  | ratio beta num den =>
    by_cases hc : num.terms = [] ∧ den.terms = []
    · exact ⟨num.const / den.const, .inl (by simp [Exact.rnd, rndRatio, hc])⟩
    · obtain ⟨v, h⟩ := settle_rounds (fun p => encloseQuotient (num.enclose beta p) (den.enclose beta p)) rndRat
        (fun m => (num.add (den.scale (-m))).vanishes beta) 64 128
      exact ⟨v, .inl (by simpa [Exact.rnd, rndRatio, hc] using h)⟩

end Sys2Proof.Machine
end

