-- ==== Sys2Proof/Laws/Operands.lean ====
section
/-! SUPPORT. When the operand checks give a value, and with what they fail. -/

namespace Sys2Proof.Machine

@[simp] theorem except_bind_ok {ε α β : Type} (x : α) (f : α → Except ε β) : (Except.ok x >>= f) = f x := rfl

@[simp] theorem except_bind_error {ε α β : Type} (e : ε) (f : α → Except ε β) :
    ((Except.error e : Except ε α) >>= f) = .error e := rfl

@[simp] theorem failAt_bind {α β : Type} (g : Stage) (r : Reason) (f : α → Except Failure β) :
    ((failAt g r : Except Failure α) >>= f) = failAt g r := rfl

theorem srcBuffer_eq_ok_iff (s : State) (a : SlotIx) (b : Buffer) : srcBuffer s a = .ok b ↔ slotAt s a = .valid b := by
  unfold srcBuffer failAt
  cases slotAt s a <;> simp

theorem srcSignal_eq_ok_iff (s : State) (a : SlotIx) (b : Signal) :
    srcSignal s a = .ok b ↔ slotAt s a = .valid (.signal b) := by
  unfold srcSignal srcBuffer failAt
  cases slotAt s a with
  | empty => simp
  | opened _ => simp
  | valid c => cases c <;> simp [asSignal, failAt]

theorem srcReal_eq_ok_iff (s : State) (a : SlotIx) (b : Signal) (xs : List Rat) :
    srcReal s a = .ok (b, xs) ↔ slotAt s a = .valid (.signal b) ∧ b.data = .real xs := by
  unfold srcReal srcSignal srcBuffer failAt
  cases slotAt s a with
  | empty => simp
  | opened _ => simp
  | valid c =>
    cases c with
    | image _ => simp [asSignal, failAt]
    | signal u =>
      cases hu : u.data with
      | real ys =>
        simp only [except_bind_ok, asSignal, asReal, hu, pure, Except.pure, Except.ok.injEq, Prod.mk.injEq,
          Slot.valid.injEq, Buffer.signal.injEq]
        constructor
        · rintro ⟨rfl, rfl⟩; exact ⟨rfl, hu⟩
        · rintro ⟨rfl, h⟩; exact ⟨rfl, Samples.real.inj (hu.symm.trans h)⟩
      | complex zs =>
        simp only [except_bind_ok, asSignal, asReal, hu, failAt, except_bind_error, reduceCtorEq, Slot.valid.injEq,
          Buffer.signal.injEq, false_iff, not_and]
        rintro rfl h
        simp [hu] at h

theorem cfgFloat_eq_ok_iff (g : Stage) (w : Word) (v : Rat) : cfgFloat g w = .ok v ↔ dec w = some v := by
  unfold cfgFloat failAt
  cases dec w <;> simp

@[simp] theorem failIf_true (g : Stage) (r : Reason) : failIf true g r = failAt g r := rfl

@[simp] theorem failIf_false (g : Stage) (r : Reason) : failIf false g r = .ok () := rfl

@[simp] theorem orOverflow_some {α : Type} (g : Stage) (v : α) : orOverflow g (some v) = .ok v := rfl

@[simp] theorem orOverflow_none {α : Type} (g : Stage) : (orOverflow g none : Except Failure α) = failAt g .overflow := rfl

end Sys2Proof.Machine
end

