-- ==== Sys2Proof/Laws/State.lean ====
section
/-! SUPPORT. For every named update of the state, what each field is afterwards: one lemma per field, true by rfl, so that
no later proof unfolds a record update. -/

namespace Sys2Proof.Machine

/-! ### `setSlot` -/

@[simp] theorem setSlot_slots (i : SlotIx) (v : Slot) (s : State) : (setSlot i v s).slots = s.slots.set i.toNat v := rfl
@[simp] theorem setSlot_fspec (i : SlotIx) (v : Slot) (s : State) : (setSlot i v s).fspec = s.fspec := rfl
@[simp] theorem setSlot_err (i : SlotIx) (v : Slot) (s : State) : (setSlot i v s).err = s.err := rfl
@[simp] theorem setSlot_sticky (i : SlotIx) (v : Slot) (s : State) : (setSlot i v s).sticky = s.sticky := rfl
@[simp] theorem setSlot_degen (i : SlotIx) (v : Slot) (s : State) : (setSlot i v s).degen = s.degen := rfl
@[simp] theorem setSlot_errInfo (i : SlotIx) (v : Slot) (s : State) : (setSlot i v s).errInfo = s.errInfo := rfl
@[simp] theorem setSlot_cfg (i : SlotIx) (v : Slot) (s : State) : (setSlot i v s).cfg = s.cfg := rfl
@[simp] theorem setSlot_openV (i : SlotIx) (v : Slot) (s : State) : (setSlot i v s).openV = s.openV := rfl
@[simp] theorem setSlot_openSlot (i : SlotIx) (v : Slot) (s : State) : (setSlot i v s).openSlot = s.openSlot := rfl
@[simp] theorem setSlot_wpend (i : SlotIx) (v : Slot) (s : State) : (setSlot i v s).wpend = s.wpend := rfl
@[simp] theorem setSlot_rsel (i : SlotIx) (v : Slot) (s : State) : (setSlot i v s).rsel = s.rsel := rfl
@[simp] theorem setSlot_rptr (i : SlotIx) (v : Slot) (s : State) : (setSlot i v s).rptr = s.rptr := rfl
@[simp] theorem setSlot_fsptr (i : SlotIx) (v : Slot) (s : State) : (setSlot i v s).fsptr = s.fsptr := rfl
@[simp] theorem setSlot_par (i : SlotIx) (v : Slot) (s : State) : (setSlot i v s).par = s.par := rfl
@[simp] theorem setSlot_pending (i : SlotIx) (v : Slot) (s : State) : (setSlot i v s).pending = s.pending := rfl
@[simp] theorem setSlot_readBack (i : SlotIx) (v : Slot) (s : State) : (setSlot i v s).readBack = s.readBack := rfl

/-! ### `releaseLoad` -/

@[simp] theorem releaseLoad_slots (s : State) : (releaseLoad s).slots = s.slots := rfl
@[simp] theorem releaseLoad_fspec (s : State) : (releaseLoad s).fspec = s.fspec := rfl
@[simp] theorem releaseLoad_err (s : State) : (releaseLoad s).err = s.err := rfl
@[simp] theorem releaseLoad_sticky (s : State) : (releaseLoad s).sticky = s.sticky := rfl
@[simp] theorem releaseLoad_degen (s : State) : (releaseLoad s).degen = s.degen := rfl
@[simp] theorem releaseLoad_errInfo (s : State) : (releaseLoad s).errInfo = s.errInfo := rfl
@[simp] theorem releaseLoad_cfg (s : State) : (releaseLoad s).cfg = s.cfg := rfl
@[simp] theorem releaseLoad_openV (s : State) : (releaseLoad s).openV = false := rfl
@[simp] theorem releaseLoad_openSlot (s : State) : (releaseLoad s).openSlot = 0#4 := rfl
@[simp] theorem releaseLoad_wpend (s : State) : (releaseLoad s).wpend = none := rfl
@[simp] theorem releaseLoad_rsel (s : State) : (releaseLoad s).rsel = s.rsel := rfl
@[simp] theorem releaseLoad_rptr (s : State) : (releaseLoad s).rptr = s.rptr := rfl
@[simp] theorem releaseLoad_fsptr (s : State) : (releaseLoad s).fsptr = s.fsptr := rfl
@[simp] theorem releaseLoad_par (s : State) : (releaseLoad s).par = s.par := rfl
@[simp] theorem releaseLoad_pending (s : State) : (releaseLoad s).pending = s.pending := rfl
@[simp] theorem releaseLoad_readBack (s : State) : (releaseLoad s).readBack = s.readBack := rfl

/-! ### `claimLoad` -/

@[simp] theorem claimLoad_slots (d : SlotIx) (s : State) : (claimLoad d s).slots = s.slots := rfl
@[simp] theorem claimLoad_fspec (d : SlotIx) (s : State) : (claimLoad d s).fspec = s.fspec := rfl
@[simp] theorem claimLoad_err (d : SlotIx) (s : State) : (claimLoad d s).err = s.err := rfl
@[simp] theorem claimLoad_sticky (d : SlotIx) (s : State) : (claimLoad d s).sticky = s.sticky := rfl
@[simp] theorem claimLoad_degen (d : SlotIx) (s : State) : (claimLoad d s).degen = s.degen := rfl
@[simp] theorem claimLoad_errInfo (d : SlotIx) (s : State) : (claimLoad d s).errInfo = s.errInfo := rfl
@[simp] theorem claimLoad_cfg (d : SlotIx) (s : State) : (claimLoad d s).cfg = s.cfg := rfl
@[simp] theorem claimLoad_openV (d : SlotIx) (s : State) : (claimLoad d s).openV = true := rfl
@[simp] theorem claimLoad_openSlot (d : SlotIx) (s : State) : (claimLoad d s).openSlot = d := rfl
@[simp] theorem claimLoad_wpend (d : SlotIx) (s : State) : (claimLoad d s).wpend = none := rfl
@[simp] theorem claimLoad_rsel (d : SlotIx) (s : State) : (claimLoad d s).rsel = s.rsel := rfl
@[simp] theorem claimLoad_rptr (d : SlotIx) (s : State) : (claimLoad d s).rptr = s.rptr := rfl
@[simp] theorem claimLoad_fsptr (d : SlotIx) (s : State) : (claimLoad d s).fsptr = s.fsptr := rfl
@[simp] theorem claimLoad_par (d : SlotIx) (s : State) : (claimLoad d s).par = s.par := rfl
@[simp] theorem claimLoad_pending (d : SlotIx) (s : State) : (claimLoad d s).pending = s.pending := rfl
@[simp] theorem claimLoad_readBack (d : SlotIx) (s : State) : (claimLoad d s).readBack = s.readBack := rfl

/-! ### `setPending` -/

@[simp] theorem setPending_slots (p : Option Rat) (s : State) : (setPending p s).slots = s.slots := rfl
@[simp] theorem setPending_fspec (p : Option Rat) (s : State) : (setPending p s).fspec = s.fspec := rfl
@[simp] theorem setPending_err (p : Option Rat) (s : State) : (setPending p s).err = s.err := rfl
@[simp] theorem setPending_sticky (p : Option Rat) (s : State) : (setPending p s).sticky = s.sticky := rfl
@[simp] theorem setPending_degen (p : Option Rat) (s : State) : (setPending p s).degen = s.degen := rfl
@[simp] theorem setPending_errInfo (p : Option Rat) (s : State) : (setPending p s).errInfo = s.errInfo := rfl
@[simp] theorem setPending_cfg (p : Option Rat) (s : State) : (setPending p s).cfg = s.cfg := rfl
@[simp] theorem setPending_openV (p : Option Rat) (s : State) : (setPending p s).openV = s.openV := rfl
@[simp] theorem setPending_openSlot (p : Option Rat) (s : State) : (setPending p s).openSlot = s.openSlot := rfl
@[simp] theorem setPending_wpend (p : Option Rat) (s : State) : (setPending p s).wpend = p := rfl
@[simp] theorem setPending_rsel (p : Option Rat) (s : State) : (setPending p s).rsel = s.rsel := rfl
@[simp] theorem setPending_rptr (p : Option Rat) (s : State) : (setPending p s).rptr = s.rptr := rfl
@[simp] theorem setPending_fsptr (p : Option Rat) (s : State) : (setPending p s).fsptr = s.fsptr := rfl
@[simp] theorem setPending_par (p : Option Rat) (s : State) : (setPending p s).par = s.par := rfl
@[simp] theorem setPending_pending (p : Option Rat) (s : State) : (setPending p s).pending = s.pending := rfl
@[simp] theorem setPending_readBack (p : Option Rat) (s : State) : (setPending p s).readBack = s.readBack := rfl

/-! ### `setFilter` -/

@[simp] theorem setFilter_slots (f : FilterSpec) (s : State) : (setFilter f s).slots = s.slots := rfl
@[simp] theorem setFilter_fspec (f : FilterSpec) (s : State) : (setFilter f s).fspec = f := rfl
@[simp] theorem setFilter_err (f : FilterSpec) (s : State) : (setFilter f s).err = s.err := rfl
@[simp] theorem setFilter_sticky (f : FilterSpec) (s : State) : (setFilter f s).sticky = s.sticky := rfl
@[simp] theorem setFilter_degen (f : FilterSpec) (s : State) : (setFilter f s).degen = s.degen := rfl
@[simp] theorem setFilter_errInfo (f : FilterSpec) (s : State) : (setFilter f s).errInfo = s.errInfo := rfl
@[simp] theorem setFilter_cfg (f : FilterSpec) (s : State) : (setFilter f s).cfg = s.cfg := rfl
@[simp] theorem setFilter_openV (f : FilterSpec) (s : State) : (setFilter f s).openV = s.openV := rfl
@[simp] theorem setFilter_openSlot (f : FilterSpec) (s : State) : (setFilter f s).openSlot = s.openSlot := rfl
@[simp] theorem setFilter_wpend (f : FilterSpec) (s : State) : (setFilter f s).wpend = s.wpend := rfl
@[simp] theorem setFilter_rsel (f : FilterSpec) (s : State) : (setFilter f s).rsel = s.rsel := rfl
@[simp] theorem setFilter_rptr (f : FilterSpec) (s : State) : (setFilter f s).rptr = s.rptr := rfl
@[simp] theorem setFilter_fsptr (f : FilterSpec) (s : State) : (setFilter f s).fsptr = s.fsptr := rfl
@[simp] theorem setFilter_par (f : FilterSpec) (s : State) : (setFilter f s).par = s.par := rfl
@[simp] theorem setFilter_pending (f : FilterSpec) (s : State) : (setFilter f s).pending = s.pending := rfl
@[simp] theorem setFilter_readBack (f : FilterSpec) (s : State) : (setFilter f s).readBack = s.readBack := rfl

/-! ### `dropFilter` -/

@[simp] theorem dropFilter_slots (s : State) : (dropFilter s).slots = s.slots := rfl
@[simp] theorem dropFilter_fspec (s : State) : (dropFilter s).fspec = { s.fspec with valid := false } := rfl
@[simp] theorem dropFilter_err (s : State) : (dropFilter s).err = s.err := rfl
@[simp] theorem dropFilter_sticky (s : State) : (dropFilter s).sticky = s.sticky := rfl
@[simp] theorem dropFilter_degen (s : State) : (dropFilter s).degen = s.degen := rfl
@[simp] theorem dropFilter_errInfo (s : State) : (dropFilter s).errInfo = s.errInfo := rfl
@[simp] theorem dropFilter_cfg (s : State) : (dropFilter s).cfg = s.cfg := rfl
@[simp] theorem dropFilter_openV (s : State) : (dropFilter s).openV = s.openV := rfl
@[simp] theorem dropFilter_openSlot (s : State) : (dropFilter s).openSlot = s.openSlot := rfl
@[simp] theorem dropFilter_wpend (s : State) : (dropFilter s).wpend = s.wpend := rfl
@[simp] theorem dropFilter_rsel (s : State) : (dropFilter s).rsel = s.rsel := rfl
@[simp] theorem dropFilter_rptr (s : State) : (dropFilter s).rptr = s.rptr := rfl
@[simp] theorem dropFilter_fsptr (s : State) : (dropFilter s).fsptr = s.fsptr := rfl
@[simp] theorem dropFilter_par (s : State) : (dropFilter s).par = s.par := rfl
@[simp] theorem dropFilter_pending (s : State) : (dropFilter s).pending = s.pending := rfl
@[simp] theorem dropFilter_readBack (s : State) : (dropFilter s).readBack = s.readBack := rfl

/-! ### `recordSuccess` -/

@[simp] theorem recordSuccess_slots (s : State) : (recordSuccess s).slots = s.slots := rfl
@[simp] theorem recordSuccess_fspec (s : State) : (recordSuccess s).fspec = s.fspec := rfl
@[simp] theorem recordSuccess_err (s : State) : (recordSuccess s).err = .ok := rfl
@[simp] theorem recordSuccess_sticky (s : State) : (recordSuccess s).sticky = s.sticky := rfl
@[simp] theorem recordSuccess_degen (s : State) : (recordSuccess s).degen = s.degen := rfl
@[simp] theorem recordSuccess_errInfo (s : State) : (recordSuccess s).errInfo = s.errInfo := rfl
@[simp] theorem recordSuccess_cfg (s : State) : (recordSuccess s).cfg = s.cfg := rfl
@[simp] theorem recordSuccess_openV (s : State) : (recordSuccess s).openV = s.openV := rfl
@[simp] theorem recordSuccess_openSlot (s : State) : (recordSuccess s).openSlot = s.openSlot := rfl
@[simp] theorem recordSuccess_wpend (s : State) : (recordSuccess s).wpend = s.wpend := rfl
@[simp] theorem recordSuccess_rsel (s : State) : (recordSuccess s).rsel = s.rsel := rfl
@[simp] theorem recordSuccess_rptr (s : State) : (recordSuccess s).rptr = s.rptr := rfl
@[simp] theorem recordSuccess_fsptr (s : State) : (recordSuccess s).fsptr = s.fsptr := rfl
@[simp] theorem recordSuccess_par (s : State) : (recordSuccess s).par = s.par := rfl
@[simp] theorem recordSuccess_pending (s : State) : (recordSuccess s).pending = s.pending := rfl
@[simp] theorem recordSuccess_readBack (s : State) : (recordSuccess s).readBack = s.readBack := rfl

/-! ### `recordFailure` -/

@[simp] theorem recordFailure_slots (c : BitVec 8) (g : Stage) (r : Reason) (s : State) : (recordFailure c g r s).slots = s.slots := rfl
@[simp] theorem recordFailure_fspec (c : BitVec 8) (g : Stage) (r : Reason) (s : State) : (recordFailure c g r s).fspec = s.fspec := rfl
@[simp] theorem recordFailure_err (c : BitVec 8) (g : Stage) (r : Reason) (s : State) : (recordFailure c g r s).err = r.errClass := rfl
@[simp] theorem recordFailure_sticky (c : BitVec 8) (g : Stage) (r : Reason) (s : State) : (recordFailure c g r s).sticky = true := rfl
@[simp] theorem recordFailure_degen (c : BitVec 8) (g : Stage) (r : Reason) (s : State) : (recordFailure c g r s).degen = s.degen := rfl
@[simp] theorem recordFailure_errInfo (c : BitVec 8) (g : Stage) (r : Reason) (s : State) : (recordFailure c g r s).errInfo = { opc := c, stage := g, reason := r } := rfl
@[simp] theorem recordFailure_cfg (c : BitVec 8) (g : Stage) (r : Reason) (s : State) : (recordFailure c g r s).cfg = s.cfg := rfl
@[simp] theorem recordFailure_openV (c : BitVec 8) (g : Stage) (r : Reason) (s : State) : (recordFailure c g r s).openV = s.openV := rfl
@[simp] theorem recordFailure_openSlot (c : BitVec 8) (g : Stage) (r : Reason) (s : State) : (recordFailure c g r s).openSlot = s.openSlot := rfl
@[simp] theorem recordFailure_wpend (c : BitVec 8) (g : Stage) (r : Reason) (s : State) : (recordFailure c g r s).wpend = s.wpend := rfl
@[simp] theorem recordFailure_rsel (c : BitVec 8) (g : Stage) (r : Reason) (s : State) : (recordFailure c g r s).rsel = s.rsel := rfl
@[simp] theorem recordFailure_rptr (c : BitVec 8) (g : Stage) (r : Reason) (s : State) : (recordFailure c g r s).rptr = s.rptr := rfl
@[simp] theorem recordFailure_fsptr (c : BitVec 8) (g : Stage) (r : Reason) (s : State) : (recordFailure c g r s).fsptr = s.fsptr := rfl
@[simp] theorem recordFailure_par (c : BitVec 8) (g : Stage) (r : Reason) (s : State) : (recordFailure c g r s).par = s.par := rfl
@[simp] theorem recordFailure_pending (c : BitVec 8) (g : Stage) (r : Reason) (s : State) : (recordFailure c g r s).pending = s.pending := rfl
@[simp] theorem recordFailure_readBack (c : BitVec 8) (g : Stage) (r : Reason) (s : State) : (recordFailure c g r s).readBack = s.readBack := rfl

/-! ### `raiseDegen` -/

@[simp] theorem raiseDegen_slots (s : State) : (raiseDegen s).slots = s.slots := rfl
@[simp] theorem raiseDegen_fspec (s : State) : (raiseDegen s).fspec = s.fspec := rfl
@[simp] theorem raiseDegen_err (s : State) : (raiseDegen s).err = s.err := rfl
@[simp] theorem raiseDegen_sticky (s : State) : (raiseDegen s).sticky = s.sticky := rfl
@[simp] theorem raiseDegen_degen (s : State) : (raiseDegen s).degen = true := rfl
@[simp] theorem raiseDegen_errInfo (s : State) : (raiseDegen s).errInfo = s.errInfo := rfl
@[simp] theorem raiseDegen_cfg (s : State) : (raiseDegen s).cfg = s.cfg := rfl
@[simp] theorem raiseDegen_openV (s : State) : (raiseDegen s).openV = s.openV := rfl
@[simp] theorem raiseDegen_openSlot (s : State) : (raiseDegen s).openSlot = s.openSlot := rfl
@[simp] theorem raiseDegen_wpend (s : State) : (raiseDegen s).wpend = s.wpend := rfl
@[simp] theorem raiseDegen_rsel (s : State) : (raiseDegen s).rsel = s.rsel := rfl
@[simp] theorem raiseDegen_rptr (s : State) : (raiseDegen s).rptr = s.rptr := rfl
@[simp] theorem raiseDegen_fsptr (s : State) : (raiseDegen s).fsptr = s.fsptr := rfl
@[simp] theorem raiseDegen_par (s : State) : (raiseDegen s).par = s.par := rfl
@[simp] theorem raiseDegen_pending (s : State) : (raiseDegen s).pending = s.pending := rfl
@[simp] theorem raiseDegen_readBack (s : State) : (raiseDegen s).readBack = s.readBack := rfl

/-! ### `acknowledge` -/

@[simp] theorem acknowledge_slots (w : Word) (s : State) : (acknowledge w s).slots = s.slots := rfl
@[simp] theorem acknowledge_fspec (w : Word) (s : State) : (acknowledge w s).fspec = s.fspec := rfl
@[simp] theorem acknowledge_err (w : Word) (s : State) : (acknowledge w s).err = s.err := rfl
@[simp] theorem acknowledge_sticky (w : Word) (s : State) : (acknowledge w s).sticky = (s.sticky && !w.getLsbD 4) := rfl
@[simp] theorem acknowledge_degen (w : Word) (s : State) : (acknowledge w s).degen = (s.degen && !w.getLsbD 8) := rfl
@[simp] theorem acknowledge_errInfo (w : Word) (s : State) : (acknowledge w s).errInfo = s.errInfo := rfl
@[simp] theorem acknowledge_cfg (w : Word) (s : State) : (acknowledge w s).cfg = s.cfg := rfl
@[simp] theorem acknowledge_openV (w : Word) (s : State) : (acknowledge w s).openV = s.openV := rfl
@[simp] theorem acknowledge_openSlot (w : Word) (s : State) : (acknowledge w s).openSlot = s.openSlot := rfl
@[simp] theorem acknowledge_wpend (w : Word) (s : State) : (acknowledge w s).wpend = s.wpend := rfl
@[simp] theorem acknowledge_rsel (w : Word) (s : State) : (acknowledge w s).rsel = s.rsel := rfl
@[simp] theorem acknowledge_rptr (w : Word) (s : State) : (acknowledge w s).rptr = s.rptr := rfl
@[simp] theorem acknowledge_fsptr (w : Word) (s : State) : (acknowledge w s).fsptr = s.fsptr := rfl
@[simp] theorem acknowledge_par (w : Word) (s : State) : (acknowledge w s).par = s.par := rfl
@[simp] theorem acknowledge_pending (w : Word) (s : State) : (acknowledge w s).pending = s.pending := rfl
@[simp] theorem acknowledge_readBack (w : Word) (s : State) : (acknowledge w s).readBack = s.readBack := rfl

/-! ### `setCfg` -/

@[simp] theorem setCfg_slots (c : CfgRegs) (s : State) : (setCfg c s).slots = s.slots := rfl
@[simp] theorem setCfg_fspec (c : CfgRegs) (s : State) : (setCfg c s).fspec = s.fspec := rfl
@[simp] theorem setCfg_err (c : CfgRegs) (s : State) : (setCfg c s).err = s.err := rfl
@[simp] theorem setCfg_sticky (c : CfgRegs) (s : State) : (setCfg c s).sticky = s.sticky := rfl
@[simp] theorem setCfg_degen (c : CfgRegs) (s : State) : (setCfg c s).degen = s.degen := rfl
@[simp] theorem setCfg_errInfo (c : CfgRegs) (s : State) : (setCfg c s).errInfo = s.errInfo := rfl
@[simp] theorem setCfg_cfg (c : CfgRegs) (s : State) : (setCfg c s).cfg = c := rfl
@[simp] theorem setCfg_openV (c : CfgRegs) (s : State) : (setCfg c s).openV = s.openV := rfl
@[simp] theorem setCfg_openSlot (c : CfgRegs) (s : State) : (setCfg c s).openSlot = s.openSlot := rfl
@[simp] theorem setCfg_wpend (c : CfgRegs) (s : State) : (setCfg c s).wpend = s.wpend := rfl
@[simp] theorem setCfg_rsel (c : CfgRegs) (s : State) : (setCfg c s).rsel = s.rsel := rfl
@[simp] theorem setCfg_rptr (c : CfgRegs) (s : State) : (setCfg c s).rptr = s.rptr := rfl
@[simp] theorem setCfg_fsptr (c : CfgRegs) (s : State) : (setCfg c s).fsptr = s.fsptr := rfl
@[simp] theorem setCfg_par (c : CfgRegs) (s : State) : (setCfg c s).par = s.par := rfl
@[simp] theorem setCfg_pending (c : CfgRegs) (s : State) : (setCfg c s).pending = s.pending := rfl
@[simp] theorem setCfg_readBack (c : CfgRegs) (s : State) : (setCfg c s).readBack = s.readBack := rfl

/-! ### `setPendingInputs` -/

@[simp] theorem setPendingInputs_slots (xs : List HostInput) (s : State) : (setPendingInputs xs s).slots = s.slots := rfl
@[simp] theorem setPendingInputs_fspec (xs : List HostInput) (s : State) : (setPendingInputs xs s).fspec = s.fspec := rfl
@[simp] theorem setPendingInputs_err (xs : List HostInput) (s : State) : (setPendingInputs xs s).err = s.err := rfl
@[simp] theorem setPendingInputs_sticky (xs : List HostInput) (s : State) : (setPendingInputs xs s).sticky = s.sticky := rfl
@[simp] theorem setPendingInputs_degen (xs : List HostInput) (s : State) : (setPendingInputs xs s).degen = s.degen := rfl
@[simp] theorem setPendingInputs_errInfo (xs : List HostInput) (s : State) : (setPendingInputs xs s).errInfo = s.errInfo := rfl
@[simp] theorem setPendingInputs_cfg (xs : List HostInput) (s : State) : (setPendingInputs xs s).cfg = s.cfg := rfl
@[simp] theorem setPendingInputs_openV (xs : List HostInput) (s : State) : (setPendingInputs xs s).openV = s.openV := rfl
@[simp] theorem setPendingInputs_openSlot (xs : List HostInput) (s : State) : (setPendingInputs xs s).openSlot = s.openSlot := rfl
@[simp] theorem setPendingInputs_wpend (xs : List HostInput) (s : State) : (setPendingInputs xs s).wpend = s.wpend := rfl
@[simp] theorem setPendingInputs_rsel (xs : List HostInput) (s : State) : (setPendingInputs xs s).rsel = s.rsel := rfl
@[simp] theorem setPendingInputs_rptr (xs : List HostInput) (s : State) : (setPendingInputs xs s).rptr = s.rptr := rfl
@[simp] theorem setPendingInputs_fsptr (xs : List HostInput) (s : State) : (setPendingInputs xs s).fsptr = s.fsptr := rfl
@[simp] theorem setPendingInputs_par (xs : List HostInput) (s : State) : (setPendingInputs xs s).par = s.par := rfl
@[simp] theorem setPendingInputs_pending (xs : List HostInput) (s : State) : (setPendingInputs xs s).pending = xs := rfl
@[simp] theorem setPendingInputs_readBack (xs : List HostInput) (s : State) : (setPendingInputs xs s).readBack = s.readBack := rfl

/-! ### `writeSlot`: only the slots and the load port -/

@[simp] theorem writeSlot_slots (d : SlotIx) (v : Slot) (s : State) : (writeSlot d v s).slots = s.slots.set d.toNat v := by
  unfold writeSlot; split <;> rfl
@[simp] theorem writeSlot_fspec (d : SlotIx) (v : Slot) (s : State) : (writeSlot d v s).fspec = s.fspec := by
  unfold writeSlot; split <;> rfl
@[simp] theorem writeSlot_err (d : SlotIx) (v : Slot) (s : State) : (writeSlot d v s).err = s.err := by
  unfold writeSlot; split <;> rfl
@[simp] theorem writeSlot_sticky (d : SlotIx) (v : Slot) (s : State) : (writeSlot d v s).sticky = s.sticky := by
  unfold writeSlot; split <;> rfl
@[simp] theorem writeSlot_degen (d : SlotIx) (v : Slot) (s : State) : (writeSlot d v s).degen = s.degen := by
  unfold writeSlot; split <;> rfl
@[simp] theorem writeSlot_errInfo (d : SlotIx) (v : Slot) (s : State) : (writeSlot d v s).errInfo = s.errInfo := by
  unfold writeSlot; split <;> rfl
@[simp] theorem writeSlot_cfg (d : SlotIx) (v : Slot) (s : State) : (writeSlot d v s).cfg = s.cfg := by
  unfold writeSlot; split <;> rfl
@[simp] theorem writeSlot_rsel (d : SlotIx) (v : Slot) (s : State) : (writeSlot d v s).rsel = s.rsel := by
  unfold writeSlot; split <;> rfl
@[simp] theorem writeSlot_rptr (d : SlotIx) (v : Slot) (s : State) : (writeSlot d v s).rptr = s.rptr := by
  unfold writeSlot; split <;> rfl
@[simp] theorem writeSlot_fsptr (d : SlotIx) (v : Slot) (s : State) : (writeSlot d v s).fsptr = s.fsptr := by
  unfold writeSlot; split <;> rfl
@[simp] theorem writeSlot_par (d : SlotIx) (v : Slot) (s : State) : (writeSlot d v s).par = s.par := by
  unfold writeSlot; split <;> rfl
@[simp] theorem writeSlot_pending (d : SlotIx) (v : Slot) (s : State) : (writeSlot d v s).pending = s.pending := by
  unfold writeSlot; split <;> rfl
@[simp] theorem writeSlot_readBack (d : SlotIx) (v : Slot) (s : State) : (writeSlot d v s).readBack = s.readBack := by
  unfold writeSlot; split <;> rfl

end Sys2Proof.Machine
end

