-- ==== Sys2Proof/Laws/Ops.lean ====
section
/-! SUPPORT. The shared operations, each with everything it can do: reading a slot after a write, the load port after a
write, the effects of a failure, and the two or three outcomes of a command. -/

namespace Sys2Proof.Machine

/-! ### Slots -/

/-- Reading a slot looks only at the slots and at `NSLOT`. -/
theorem slotAt_congr {s t : State} (hs : t.slots = s.slots) (hp : t.par = s.par) (i : SlotIx) :
    slotAt t i = slotAt s i := by simp [slotAt, hs, hp]

theorem slotAt_of_ge {s : State} {i : SlotIx} (h : s.par.nslot ≤ i.toNat) : slotAt s i = .empty := by
  simp [slotAt, Nat.not_lt.mpr h]

theorem slotAt_setSlot_self (v : Slot) {s : State} {i : SlotIx} (h : i.toNat < s.par.nslot) :
    slotAt (setSlot i v s) i = v := by simp [slotAt, h]

theorem slotAt_setSlot_empty_self (s : State) (i : SlotIx) : slotAt (setSlot i .empty s) i = .empty := by
  by_cases h : i.toNat < s.par.nslot <;> simp [slotAt, h]

theorem slotAt_setSlot_ne (v : Slot) (s : State) {i j : SlotIx} (h : i ≠ j) :
    slotAt (setSlot i v s) j = slotAt s j := by
  have : i.toNat ≠ j.toNat := fun e => h (BitVec.eq_of_toNat_eq e)
  simp [slotAt, Vector.getElem_set_ne, this]

theorem slotAt_writeSlot_self (v : Slot) {s : State} {d : SlotIx} (h : d.toNat < s.par.nslot) :
    slotAt (writeSlot d v s) d = v :=
  (slotAt_congr (by simp) (by simp) d).trans (slotAt_setSlot_self v h)

theorem slotAt_writeSlot_empty_self (s : State) (d : SlotIx) : slotAt (writeSlot d .empty s) d = .empty :=
  (slotAt_congr (by simp) (by simp) d).trans (slotAt_setSlot_empty_self s d)

theorem slotAt_writeSlot_ne (v : Slot) (s : State) {d j : SlotIx} (h : d ≠ j) :
    slotAt (writeSlot d v s) j = slotAt s j :=
  (slotAt_congr (by simp) (by simp) j).trans (slotAt_setSlot_ne v s h)

/-- The load port after a command writes slot `d` (40_buffer_commands.md R179). -/
theorem writeSlot_load (d : SlotIx) (v : Slot) (s : State) :
    (s.openV = true ∧ s.openSlot = d ∧ (writeSlot d v s).openV = false ∧ (writeSlot d v s).openSlot = 0#4
      ∧ (writeSlot d v s).wpend = none)
    ∨ (¬ (s.openV = true ∧ s.openSlot = d) ∧ (writeSlot d v s).openV = s.openV ∧ (writeSlot d v s).openSlot = s.openSlot
      ∧ (writeSlot d v s).wpend = s.wpend) := by
  unfold writeSlot
  split
  · rename_i h
    simp only [Bool.and_eq_true, beq_iff_eq] at h
    exact .inl ⟨h.1, h.2, rfl, rfl, rfl⟩
  · rename_i h
    simp only [Bool.and_eq_true, beq_iff_eq] at h
    exact .inr ⟨h, rfl, rfl, rfl⟩

/-- The buffer being loaded, from the two facts that make it one. -/
theorem openBuffer_eq_some_iff (s : State) (b : Signal) :
    openBuffer s = some b ↔ s.openV = true ∧ slotAt s s.openSlot = .opened b := by
  unfold openBuffer
  cases s.openV
  · simp
  · cases slotAt s s.openSlot <;> simp

/-! ### Failure -/

/-- What `invalidate` does, by the command's destination. -/
theorem invalidate_cases (i : Instr) (s : State) :
    (i.dst = none ∧ invalidate i s = if i.designsFilter then dropFilter s else s)
    ∨ ∃ d, i.dst = some d
      ∧ invalidate i s = if i.designsFilter then dropFilter (writeSlot d .empty s) else writeSlot d .empty s := by
  unfold invalidate
  cases i.dst with
  | none => exact .inl ⟨rfl, rfl⟩
  | some d => exact .inr ⟨d, rfl, rfl⟩

@[simp] theorem invalidate_cfg (i : Instr) (s : State) : (invalidate i s).cfg = s.cfg := by
  obtain ⟨-, h⟩ | ⟨d, -, h⟩ := invalidate_cases i s <;> rw [h] <;> split <;> simp

@[simp] theorem invalidate_par (i : Instr) (s : State) : (invalidate i s).par = s.par := by
  obtain ⟨-, h⟩ | ⟨d, -, h⟩ := invalidate_cases i s <;> rw [h] <;> split <;> simp

@[simp] theorem invalidate_degen (i : Instr) (s : State) : (invalidate i s).degen = s.degen := by
  obtain ⟨-, h⟩ | ⟨d, -, h⟩ := invalidate_cases i s <;> rw [h] <;> split <;> simp

@[simp] theorem invalidate_rsel (i : Instr) (s : State) : (invalidate i s).rsel = s.rsel := by
  obtain ⟨-, h⟩ | ⟨d, -, h⟩ := invalidate_cases i s <;> rw [h] <;> split <;> simp

@[simp] theorem invalidate_rptr (i : Instr) (s : State) : (invalidate i s).rptr = s.rptr := by
  obtain ⟨-, h⟩ | ⟨d, -, h⟩ := invalidate_cases i s <;> rw [h] <;> split <;> simp

@[simp] theorem invalidate_fsptr (i : Instr) (s : State) : (invalidate i s).fsptr = s.fsptr := by
  obtain ⟨-, h⟩ | ⟨d, -, h⟩ := invalidate_cases i s <;> rw [h] <;> split <;> simp

@[simp] theorem invalidate_pending (i : Instr) (s : State) : (invalidate i s).pending = s.pending := by
  obtain ⟨-, h⟩ | ⟨d, -, h⟩ := invalidate_cases i s <;> rw [h] <;> split <;> simp

@[simp] theorem invalidate_readBack (i : Instr) (s : State) : (invalidate i s).readBack = s.readBack := by
  obtain ⟨-, h⟩ | ⟨d, -, h⟩ := invalidate_cases i s <;> rw [h] <;> split <;> simp

/-! ### The outcome of a command -/

/-- The state a command leaves. -/
def commandResult (i : Instr) (s : State) (body : Except Failure State) : State :=
  if i.slotsExist s.par.nslot then
    match body with
    | .ok t => recordSuccess t
    | .error f => takeFailure i f s
  else takeDecodeFailure i.op.code .badSlot s

/-- A command always goes on to a next state. -/
theorem runCommand_next (i : Instr) (s : State) (body : Except Failure State) :
    runCommand i s body = .next (commandResult i s body) := by
  unfold runCommand commandResult
  split
  · cases body <;> rfl
  · rfl

/-- What a command does, once: a slot it names does not exist; or its rule failed; or its rule gave a state. -/
theorem runCommand_cases {i : Instr} {s t : State} {body : Except Failure State} (h : runCommand i s body = .next t) :
    (i.slotsExist s.par.nslot = false ∧ t = takeDecodeFailure i.op.code .badSlot s)
    ∨ (i.slotsExist s.par.nslot = true ∧ ∃ f, body = .error f ∧ t = takeFailure i f s)
    ∨ (i.slotsExist s.par.nslot = true ∧ ∃ u, body = .ok u ∧ t = recordSuccess u) := by
  rw [runCommand_next] at h
  cases hs : i.slotsExist s.par.nslot with
  | false => exact .inl ⟨rfl, by simpa [commandResult, hs] using h.symm⟩
  | true =>
    cases body with
    | error f => exact .inr (.inl ⟨rfl, f, rfl, by simpa [commandResult, hs] using h.symm⟩)
    | ok u => exact .inr (.inr ⟨rfl, u, rfl, by simpa [commandResult, hs] using h.symm⟩)

/-- A command whose slots exist and whose rule gives a state succeeds with it. -/
theorem runCommand_ok {i : Instr} {s u : State} (h : i.slotsExist s.par.nslot = true) :
    runCommand i s (.ok u) = .next (recordSuccess u) := by simp [runCommand, h]

/-- A command whose slots exist and whose rule fails takes the failure. -/
theorem runCommand_error {i : Instr} {s : State} {f : Failure} (h : i.slotsExist s.par.nslot = true) :
    runCommand i s (.error f) = .next (takeFailure i f s) := by simp [runCommand, h]

end Sys2Proof.Machine
end

