-- ==== Sys2Proof/Laws/PerInstr.lean ====
section
/-! SUPPORT. The family EncodesInRow: the word of every command lies in its row of the opcode table (30_encoding.md
R144). -/

namespace Sys2Proof.Laws

/-- The operation code meets a full mask. -/
theorem code_and_ones (o : Opcode) : o.code &&& 0xFF#8 = o.code := by cases o <;> decide

/-- Masking five joined fields masks each of them. -/
theorem fields_and (c mc : BitVec 8) (d md a ma b mb : BitVec 4) (i mi : BitVec 12) :
    (c ++ d ++ a ++ b ++ i) &&& (mc ++ md ++ ma ++ mb ++ mi)
      = (c &&& mc) ++ (d &&& md) ++ (a &&& ma) ++ (b &&& mb) ++ (i &&& mi) := by
  simp only [BitVec.and_append]

/-- Bit `24 + k` of five joined fields is bit `k` of the first. -/
theorem fields_top (c : BitVec 8) (d a b : BitVec 4) (i : BitVec 12) (k : Nat) :
    (c ++ d ++ a ++ b ++ i).getLsbD (24 + k) = c.getLsbD k := by
  simp only [BitVec.getLsbD_append, show ¬ (24 + k < 12) by omega, show ¬ (24 + k - 12 < 4) by omega,
    show ¬ (24 + k - 12 - 4 < 4) by omega, show ¬ (24 + k - 12 - 4 - 4 < 4) by omega,
    show 24 + k - 12 - 4 - 4 - 4 = k by omega, if_false]

/-- Masking a word acts on its fields. -/
theorem commandWord_and (o : Opcode) (d a b : SlotIx) (imm : BitVec 12) (md ma mb : BitVec 4) (mi : BitVec 12) :
    commandWord o d a b imm &&& (0xFF#8 ++ md ++ ma ++ mb ++ mi)
      = o.code ++ (d &&& md) ++ (a &&& ma) ++ (b &&& mb) ++ (imm &&& mi) := by
  have h := fields_and o.code 0xFF#8 d md a ma b mb imm mi
  rw [code_and_ones] at h
  exact h

/-- The operation code of a word is read back. -/
theorem opcField_commandWord (o : Opcode) (d a b : SlotIx) (imm : BitVec 12) :
    opcField (commandWord o d a b imm) = o.code := by
  apply BitVec.eq_of_getLsbD_eq
  intro k hk
  have h := fields_top o.code d a b imm k
  rw [opcField, BitVec.getLsbD_extractLsb', decide_eq_true hk, Bool.true_and]
  exact h

/-- A row's match word is its operation code over zeros. -/
theorem matchWord_eq (o : Opcode) : o.matchWord = o.code ++ 0#4 ++ 0#4 ++ 0#4 ++ 0#12 := by cases o <;> decide

namespace EncodesInRow

/-- The word of a command meets its row's mask and match, and carries its operation code. -/
def Statement (i : Instr) : Prop :=
  encode i &&& i.op.mask = i.op.matchWord ∧ opcField (encode i) = i.op.code

/-- The two facts from the row: the mask keeps the operation code and exactly the fields that must be zero. -/
theorem of_fields {i : Instr} {d a b : SlotIx} {imm : BitVec 12} (md ma mb : BitVec 4) (mi : BitVec 12)
    (he : encode i = commandWord i.op d a b imm) (hm : i.op.mask = 0xFF#8 ++ md ++ ma ++ mb ++ mi)
    (hd : d &&& md = 0#4) (ha : a &&& ma = 0#4) (hb : b &&& mb = 0#4) (hi : imm &&& mi = 0#12) : Statement i := by
  refine ⟨?_, by rw [he, opcField_commandWord]⟩
  rw [he, hm, commandWord_and, hd, ha, hb, hi, matchWord_eq]

theorem nop : Statement .nop := by unfold Statement; decide
theorem bopen (d : SlotIx) (kind : SigKind) : Statement (.bopen d kind) :=
  of_fields 0#4 0xF#4 0xF#4 0xFFE#12 rfl rfl (by simp) rfl rfl (by cases kind <;> rfl)
theorem bclose : Statement .bclose := by unfold Statement; decide
theorem bfree (d : SlotIx) : Statement (.bfree d) :=
  of_fields 0#4 0xF#4 0xF#4 0xFFF#12 rfl rfl (by simp) rfl rfl rfl
theorem demod (d a : SlotIx) : Statement (.demod d a) :=
  of_fields 0#4 0#4 0xF#4 0xFFF#12 rfl rfl (by simp) (by simp) rfl rfl
theorem dcrem (d a : SlotIx) : Statement (.dcrem d a) :=
  of_fields 0#4 0#4 0xF#4 0xFFF#12 rfl rfl (by simp) (by simp) rfl rfl
theorem decim (d a : SlotIx) : Statement (.decim d a) :=
  of_fields 0#4 0#4 0xF#4 0xFFF#12 rfl rfl (by simp) (by simp) rfl rfl
theorem resamp (d a : SlotIx) : Statement (.resamp d a) :=
  of_fields 0#4 0#4 0xF#4 0xFFF#12 rfl rfl (by simp) (by simp) rfl rfl
theorem bpdesign (a : SlotIx) : Statement (.bpdesign a) :=
  of_fields 0xF#4 0#4 0xF#4 0xFFF#12 rfl rfl rfl (by simp) rfl rfl
theorem bpapply (d a : SlotIx) : Statement (.bpapply d a) :=
  of_fields 0#4 0#4 0xF#4 0xFFF#12 rfl rfl (by simp) (by simp) rfl rfl
theorem agc (d a : SlotIx) : Statement (.agc d a) :=
  of_fields 0#4 0#4 0xF#4 0xFFF#12 rfl rfl (by simp) (by simp) rfl rfl
theorem extract (d a : SlotIx) (ch : BitVec 2) : Statement (.extract d a ch) :=
  of_fields 0#4 0#4 0xF#4 0xFFC#12 rfl rfl (by simp) (by simp) rfl (by revert ch; decide)
theorem formimg (d a : SlotIx) (c : BitVec 4) : Statement (.formimg d a c) :=
  of_fields 0#4 0#4 0xF#4 0xFF0#12 rfl rfl (by simp) (by simp) rfl (by revert c; decide)
theorem combine (d a b : SlotIx) : Statement (.combine d a b) :=
  of_fields 0#4 0#4 0#4 0xFFF#12 rfl rfl (by simp) (by simp) (by simp) rfl

end EncodesInRow

end Sys2Proof.Laws
end

