-- ==== Sys2Proof/Laws/Step.lean ====
section
/-! SUPPORT. What a step does, once: idle, or one input served. -/

namespace Sys2Proof.Machine

/-- Every arm of `exec` is a command run on the state. -/
theorem exec_is_runCommand (i : Instr) (s : State) : ∃ body, exec i s = runCommand i s body := by
  cases i with
  | nop => exact ⟨.ok s, rfl⟩
  | bfree d => exact ⟨.ok (writeSlot d .empty s), rfl⟩
  | _ => exact ⟨_, rfl⟩

/-- The two things a step can do. -/
theorem step_cases {s : State} {o : Host.Outcome State Fault Refusal} (h : step s = o) :
    (s.pending = [] ∧ o = .next s)
    ∨ ∃ x rest, s.pending = x :: rest ∧ o = serve x (setPendingInputs rest s) := by
  unfold step at h
  split at h
  · rename_i hp; exact .inl ⟨hp, h.symm⟩
  · rename_i x rest hp; exact .inr ⟨x, rest, hp, h.symm⟩

/-- A register's word index names that register. -/
@[simp] theorem atIndex_index (r : Reg) : Reg.atIndex r.index = some r := by cases r <;> decide

/-- Only the index of a register names it. -/
theorem index_of_atIndex {ix : RegIx} {r : Reg} (h : Reg.atIndex ix = some r) : ix = r.index := by
  revert h; revert ix; cases r <;> decide

end Sys2Proof.Machine
end

