-- ==== Sys2Proof/Tests/Slice0.lean ====
section
/-! SUPPORT. Tests: the refused ill-formed commands, the words the spec writes out, one-step tests whose results are the
spec's own vectors (95_test_vectors.md), and for every statement with hypotheses a state and operands that meet them. -/

namespace Sys2Proof.Tests

open Sys2Proof Sys2Proof.Machine Sys2Proof.Safety

-- One theorem at a time: many kernel evaluations at once would each hold a thread's stack.
set_option Elab.async false

/-! ### Helpers -/

/-- A REAL buffer with channel 0. -/
def realBuf (rate : Rat) (xs : List Rat) : Buffer := .signal { rate := rate, chan := 0#2, data := .real xs }

/-- A COMPLEX buffer with channel 0. -/
def complexBuf (rate : Rat) (zs : List (Rat × Rat)) : Buffer := .signal { rate := rate, chan := 0#2, data := .complex zs }

/-- An image. -/
def imageBuf (rows width : Nat) (pix : List Byte) : Buffer := .image { rows := rows, width := width, pix := pix }

/-- The reset state with the given contents in slots 0, 1, ... -/
def holding : List Slot → State
  | [] => State.reset
  | x :: xs => setSlot (BitVec.ofNat 4 xs.length) x (holding xs)

/-- The reset state with one VALID buffer, in slot 0. -/
def one (b : Buffer) : State := holding [.valid b]

/-- The state with other configuration registers. -/
def withCfg (f : CfgRegs → CfgRegs) (s : State) : State := { s with cfg := f s.cfg }

/-- The state with `FSPEC` valid with the given coefficients, at rate 8320 (the start of V39). -/
def withFilter (coef : List Rat) (s : State) : State :=
  setFilter { valid := true, low := 1, high := 2, fs := 8320, taps := coef.length, coef := coef } s

/-- Slot 0 OPEN with the buffer given. -/
def loading (b : Signal) : State := claimLoad 0#4 (holding [.opened b])

/-- The largest element of `F`. -/
def maxF : Rat := pow2 128 - pow2 104

/-- The state an outcome goes on to. -/
def nextOf : Host.Outcome State Fault Refusal → Option State
  | .next t => some t
  | .fault _ => none
  | .refused _ => none

/-- The state a command leaves. -/
def after (i : Instr) (s : State) : State := (nextOf (exec i s)).getD s

/-- Every command goes on to the state `after` names. -/
theorem exec_after (i : Instr) (s : State) : exec i s = .next (after i s) := by
  obtain ⟨body, h⟩ := exec_is_runCommand i s
  simp [after, h, runCommand_next, nextOf]

/-- What the tests look at: a slot, `STATUS` and `ERRINFO`, after one step from a state to which the word is sent. -/
def seen (d : SlotIx) (w : Nat) (s : State) : Option (Slot × Word × Word) :=
  (nextOf (step (s.withFetchWord 32 w))).map fun t => (slotAt t d, statusWord t, errInfoWord t)

/-- The word a register reads after one host input has been served. -/
def readsAfter (x : HostInput) (r : Reg) (s : State) : Option Word :=
  (nextOf (serve x s)).map fun t => (readReg r t).1

/-! ### WellFormed: one ill-formed command for each check -/

theorem test_wf_refuses_channel_count_zero : (Instr.formimg 1#4 0#4 0#4).wf = false := by decide
theorem test_wf_takes_channel_count_fifteen : (Instr.formimg 1#4 0#4 15#4).wf = true := by decide
theorem test_slots_refuse_dst : (Instr.demod 8#4 0#4).slotsExist 8 = false := by decide
theorem test_slots_refuse_srca : (Instr.bpdesign 8#4).slotsExist 8 = false := by decide
theorem test_slots_refuse_srcb : (Instr.combine 0#4 1#4 15#4).slotsExist 8 = false := by decide
theorem test_slots_take_the_last : (Instr.combine 7#4 7#4 7#4).slotsExist 8 = true := by decide

/-! ### Decoding (95_test_vectors.md V01 to V15; the words are the spec's) -/

theorem test_decode_nop : decode 0x00000000#32 = .ok .nop := by rfl
theorem test_decode_bopen : decode 0x01000001#32 = .ok (.bopen 0#4 .complex) := by rfl
theorem test_decode_bclose : decode 0x02000000#32 = .ok .bclose := by rfl
theorem test_decode_bfree : decode 0x03300000#32 = .ok (.bfree 3#4) := by rfl
theorem test_decode_demod : decode 0x10100000#32 = .ok (.demod 1#4 0#4) := by rfl
theorem test_decode_dcrem : decode 0x11100000#32 = .ok (.dcrem 1#4 0#4) := by rfl
theorem test_decode_decim : decode 0x20100000#32 = .ok (.decim 1#4 0#4) := by rfl
theorem test_decode_resamp : decode 0x21320000#32 = .ok (.resamp 3#4 2#4) := by rfl
theorem test_decode_bpdesign : decode 0x30000000#32 = .ok (.bpdesign 0#4) := by rfl
theorem test_decode_bpapply : decode 0x31100000#32 = .ok (.bpapply 1#4 0#4) := by rfl
theorem test_decode_agc : decode 0x40100000#32 = .ok (.agc 1#4 0#4) := by rfl
theorem test_decode_extract : decode 0x50210001#32 = .ok (.extract 2#4 1#4 1#2) := by rfl
theorem test_decode_formimg : decode 0x60210001#32 = .ok (.formimg 2#4 1#4 1#4) := by rfl
theorem test_decode_combine : decode 0x61312000#32 = .ok (.combine 3#4 1#4 2#4) := by rfl
theorem test_decode_unknown_opcode : decode 0x7F000000#32 = .error .reservedOpcode := by rfl
theorem test_decode_immediate_bit : decode 0x10100001#32 = .error .reservedField := by rfl
theorem test_decode_kind_bit_one : decode 0x01000002#32 = .error .reservedField := by rfl
theorem test_decode_bclose_with_dst : decode 0x02100000#32 = .error .reservedField := by rfl
theorem test_decode_channel_count_zero : decode 0x60100000#32 = .error .reservedField := by rfl
theorem test_table_word : decodeTableWord 32 0x10000000 = some (.demod 0#4 0#4) := by decide
theorem test_table_word_reserved : decodeTableWord 32 0x60000000 = none := by decide

/-- Each row's `match` word is fetched and run by one step after reset. -/
theorem test_fetched_after_reset :
    (Opcode.all.all fun o => (nextOf (step (State.reset.withFetchWord 32 o.matchWord.toNat))).isSome) = true := by decide

/-! ### Decode failures (V09, V12) -/

theorem test_reserved_opcode_reported : seen 0#4 0x7F000000 State.reset = some (.empty, 0x00000014#32, 0x0020007F#32) := by
  decide
theorem test_bad_slot_reported : seen 0#4 0x10900000 (one (realBuf 1 [])) =
    some (.valid (realBuf 1 []), 0x00000014#32, 0x00220010#32) := by decide +kernel

/-! ### One step of each command (95_test_vectors.md, the vector named) -/

/-- R171. -/
theorem test_nop_clears_err : seen 0#4 0x00000000 { State.reset with err := .configuration, sticky := true } =
    some (.empty, 0x00000010#32, 0x00000000#32) := by decide
/-- V16. -/
theorem test_bopen_without_rate : seen 0#4 0x01000000 State.reset = some (.empty, 0x00000011#32, 0x00010101#32) := by
  decide +kernel
/-- V17, first step. -/
theorem test_bopen_complex : seen 0#4 0x01000001 (withCfg (fun c => { c with sdrSampleRate := 0x473B8000#32 }) State.reset) =
    some (.opened { rate := 48000, chan := 0#2, data := .complex [] }, 0x00001000#32, 0x00000000#32) := by decide +kernel
/-- V17, the odd word. -/
theorem test_bclose_odd_words : seen 0#4 0x02000000
      (setPending (some 3) (loading { rate := 48000, chan := 0#2, data := .complex [] })) =
    some (.opened { rate := 48000, chan := 0#2, data := .complex [] }, 0x00001012#32, 0x00130102#32) := by decide +kernel
/-- V17, the last step. -/
theorem test_bclose_makes_valid : seen 0#4 0x02000000 (loading { rate := 48000, chan := 0#2, data := .complex [(3, 4)] }) =
    some (.valid (complexBuf 48000 [(3, 4)]), 0x00000000#32, 0x00000000#32) := by decide +kernel
/-- R174: freeing the OPEN slot abandons the load. -/
theorem test_bfree_abandons_load : seen 0#4 0x03000000 (loading { rate := 48000, chan := 0#2, data := .real [1] }) =
    some (.empty, 0x00000000#32, 0x00000000#32) := by decide +kernel
/-- V25. -/
theorem test_demod_magnitudes : seen 1#4 0x10100000 (one (complexBuf 48000 [(3, 4), (0, -5), (6, 8)])) =
    some (.valid (realBuf 48000 [5, 5, 10]), 0x00000000#32, 0x00000000#32) := by decide +kernel
/-- V28. -/
theorem test_demod_hilbert : seen 1#4 0x10100000 (one (realBuf 48000 [1, 0, -1, 0])) =
    some (.valid (realBuf 48000 [1, 1, 1, 1]), 0x00000000#32, 0x00000000#32) := by decide +kernel
/-- V50. -/
theorem test_dcrem_mean : seen 1#4 0x11100000 (one (realBuf 48000 [1, 2, 3, 6])) =
    some (.valid (realBuf 48000 [-2, -1, 0, 3]), 0x00000000#32, 0x00000000#32) := by decide +kernel
/-- V53. -/
theorem test_dcrem_kind : seen 1#4 0x11100000 (one (complexBuf 48000 [])) = some (.empty, 0x00000014#32, 0x00240011#32) := by
  decide +kernel
/-- V22. -/
theorem test_decim_copy : seen 1#4 0x20100000 (one (realBuf 20800 [1, 2, 3])) =
    some (.valid (realBuf 20800 [1, 2, 3]), 0x00000000#32, 0x00000000#32) := by decide +kernel
/-- V24. -/
theorem test_decim_short : seen 1#4 0x20100000 (one (realBuf 48000 [1])) = some (.empty, 0x00000012#32, 0x00110320#32) := by
  decide +kernel
/-- V64, its first two samples. -/
theorem test_resamp_identity : seen 1#4 0x21100000 (one (realBuf 8320 [1, 2])) =
    some (.valid (realBuf 8320 [1, 2]), 0x00000000#32, 0x00000000#32) := by decide +kernel
/-- V66. -/
theorem test_resamp_no_pixels : seen 1#4 0x21100000
      (withCfg (fun c => { c with decPixelsPerLine := 0#32 }) (one (realBuf 8320 [1]))) =
    some (.empty, 0x00000011#32, 0x00010821#32) := by decide +kernel
/-- V36: `coef = [rnd(1/52)]`, read back as `FSDATA`. -/
theorem test_bpdesign_one_tap :
    (nextOf (step ((withCfg (fun c => { c with fltFirTaps := 1#32 }) (one (realBuf 20800 []))).withFetchWord 32 0x30000000))).map
      (fun t => (statusWord t, (readReg .fsinfo t).1, (readReg .fsrate t).1, (readReg .fsdata t).1)) =
    some (0x00010000#32, 0x80000001#32, 0x46A28000#32, 0x3C9D89D9#32) := by decide +kernel
/-- V32. -/
theorem test_bpdesign_nyquist : seen 1#4 0x30000000
      (withCfg (fun c => { c with fltFirTaps := 3#32 }) (one (realBuf 4800 []))) =
    some (.empty, 0x00000011#32, 0x00030430#32) := by decide +kernel
/-- V39. -/
theorem test_bpapply_convolves : seen 1#4 0x31100000 (withFilter [1 / 4, 1 / 2, 1 / 4] (one (realBuf 8320 [4, 8, 12, 16]))) =
    some (.valid (realBuf 8320 [4, 8, 12, 11]), 0x00010000#32, 0x00000000#32) := by decide +kernel
/-- V39a: `coef[0]` multiplies the next sample. -/
theorem test_bpapply_direction : seen 1#4 0x31100000 (withFilter [1, 0, 0] (one (realBuf 8320 [4, 8, 12, 16]))) =
    some (.valid (realBuf 8320 [8, 12, 16, 0]), 0x00010000#32, 0x00000000#32) := by decide +kernel
/-- V40. -/
theorem test_agc_scales : seen 1#4 0x40100000 (withCfg (fun c => { c with agcTarget := 0x40200000#32 })
      (one (complexBuf 48000 [(3, 4), (3, 4), (3, 4), (300, 400)]))) =
    some (.valid (complexBuf 48000 [(3 / 2, 2), (3 / 2, 2), (3 / 2, 2), (150, 200)]), 0x00000000#32, 0x00000000#32) := by
  decide +kernel
/-- V43. -/
theorem test_agc_gain_clamped : seen 1#4 0x40100000 (one (realBuf 48000 [2])) =
    some (.valid (realBuf 48000 [20]), 0x00000000#32, 0x00000000#32) := by decide +kernel
/-- V59: the words of the result, and the channel tag of V56. -/
theorem test_extract_chain :
    (nextOf (step ((withCfg (fun c => { c with fltFirTaps := 1#32 }) (one (realBuf 20800 [52, 104, -52]))).withFetchWord 32
        0x50200002))).map (fun t => ((slotAt t 2#4).words, (slotAt t 2#4).infoWord)) =
    some ([0x3E36EB85#32, 0x3EF9DF93#32, 0xBF2AAAAB#32], 0x00000202#32) := by decide +kernel
/-- V57, in small: the shape check of the filtering step. -/
theorem test_extract_short : seen 2#4 0x50200001
      (withCfg (fun c => { c with fltFirTaps := 3#32 }) (one (realBuf 20800 [1, 2]))) =
    some (.empty, 0x00000012#32, 0x00100550#32) := by decide +kernel
/-- V70. -/
theorem test_formimg_truncates : seen 1#4 0x60100001 (withCfg (fun c => { c with decPixelsPerLine := 4#32 })
      (one (realBuf 8320 [0, 10, 20, 40, 40, 30, 20, 10, 99]))) =
    some (.valid (imageBuf 2 4 [0#8, 63#8, 127#8, 255#8, 255#8, 191#8, 127#8, 63#8]), 0x00000000#32, 0x00000000#32) := by
  decide +kernel
/-- V71. -/
theorem test_formimg_flat : seen 1#4 0x60100001 (withCfg (fun c => { c with decPixelsPerLine := 2#32 })
      (one (realBuf 8320 [7, 7, 7, 7]))) =
    some (.valid (imageBuf 2 2 [0#8, 0#8, 0#8, 0#8]), 0x00000100#32, 0x00000000#32) := by decide +kernel
/-- V81. -/
theorem test_combine_floors : seen 2#4 0x61201000
      (holding [.valid (imageBuf 1 2 [255#8, 254#8]), .valid (imageBuf 1 2 [255#8, 255#8])]) =
    some (.valid (imageBuf 1 2 [255#8, 254#8]), 0x00000000#32, 0x00000000#32) := by decide +kernel
/-- V82, in small. -/
theorem test_combine_shapes : seen 2#4 0x61201000
      (holding [.valid (imageBuf 1 2 [255#8, 254#8]), .valid (imageBuf 2 1 [255#8, 255#8])]) =
    some (.empty, 0x00000011#32, 0x00070A61#32) := by decide +kernel

/-! ### Ports and registers -/

/-- V18: a NaN aborts the load. -/
theorem test_wdata_nan : readsAfter (.regWrite 0x10#6 0x7FC00000#32) .errinfo (loading { rate := 1, chan := 0#2, data := .real [] }) =
    some 0x001801FF#32 := by decide +kernel
/-- V19. -/
theorem test_wdata_closed : readsAfter (.regWrite 0x10#6 0x3F800000#32) .errinfo State.reset = some 0x002601FF#32 := by
  decide +kernel
/-- V19a: minus zero is stored as 0. -/
theorem test_wdata_minus_zero :
    readsAfter (.regWrite 0x10#6 0x80000000#32) .rdata (loading { rate := 1, chan := 0#2, data := .real [] }) = some 0#32 := by
  decide +kernel
/-- V17: a pending I word shows in `OPENINFO`. -/
theorem test_openinfo_pending : readsAfter (.regWrite 0x10#6 0x40400000#32) .openinfo
    (loading { rate := 1, chan := 0#2, data := .complex [] }) = some 0xC0000000#32 := by decide +kernel
/-- V19b. -/
theorem test_rdata_next : (readReg .rdata { one (realBuf 48000 [5, 5, 10]) with rptr := 2#32 }).1 = 0x41200000#32 := by
  decide +kernel
/-- P4: clearing `STICKY`. -/
theorem test_status_clear : readsAfter (.regWrite 0x02#6 0x00000010#32) .status { State.reset with sticky := true } =
    some 0x00000000#32 := by decide
/-- R106, V08. -/
theorem test_file_bytes : fileWords [0x00#8, 0x00#8, 0x40#8, 0x40#8, 0x00#8, 0x00#8, 0x80#8, 0x40#8] =
    [0x40400000#32, 0x40800000#32] := by decide
/-- R149: `load` of one COMPLEX element is a `bopen`, two `WDATA` writes and a `bclose`. -/
theorem test_load_pseudo : load 0#4 .complex [0x40400000#32, 0x40800000#32] =
    [.regWrite 1#6 0x01000001#32, .regWrite 0x10#6 0x40400000#32, .regWrite 0x10#6 0x40800000#32, .regWrite 1#6 0x02000000#32] := by
  decide
/-- P1: a clean run. -/
theorem test_clean_run :
    (endState (wr .sdrSampleRate 0x473B8000#32 :: load 0#4 .complex [0x40400000#32, 0x40800000#32]) State.reset).map
      (fun t => (decide (t.sticky = false ∧ t.openV = false), slotAt t 0#4)) =
    some (true, .valid (complexBuf 48000 [(3, 4)])) := by decide +kernel

/-! ### Numbers that lie exactly between two elements of `F`

Hand calculation from the formulas of R26 and R29. -/

/-- R26, R15: the parts of `a[0]` are 16777213 and `24576/√3` in magnitude, so `|a[0]| = 16777219`, a tie. -/
theorem test_henv_tie_of_three : (Exact.analytic [16777213, 0, 24576] 0).rnd = some 16777220 := by decide +kernel
/-- R26, R15: the parts of `a[1]` are 1154399 and 16806000 in magnitude, so `|a[1]| = 16845601`, a tie. -/
theorem test_henv_tie_of_eight :
    (Exact.analytic [16806000, 1154399, -16806000, 0, 16806000, 0, -16806000, 0] 1).rnd = some 16845600 := by decide +kernel
/-- R20, R15: `sinc(1/6) = 5·sinc(5/6)`, so the sum is 16777217, a tie that no precision decides. -/
theorem test_sinc_tie :
    (Exact.ratio (.rat 5) ((Combination.ofRat 16777217).add ((Combination.term 1 (1 / 6) (1 / 2)).add (.term (-5) (5 / 6) (1 / 2))))
      (.ofRat 1)).rnd = some 16777216 := by decide +kernel
/-- R29, R252: `y[0] = (7/40)·11983735 = 2097153.625`, halfway between 2097153.5 and 2097153.75. -/
theorem test_resample_tie :
    (numResample Config.reference [11983735, 0, 0] 40 7 1).map Exact.rnd = [some (4194307 / 2)] := by decide +kernel

/-! ### Witnesses: for every statement with hypotheses, a state and operands that meet them

One theorem for each statement, named after it; a statement with several clauses has each clause's hypotheses met, at the
boundary values of its ranges. -/

/-- 48000 Hz in `SDR_SAMPLE_RATE`. -/
def rated : State := withCfg (fun c => { c with sdrSampleRate := 0x473B8000#32 }) State.reset

/-- A tap count in `FLT_FIR_TAPS`. -/
def withTaps (n : Nat) (s : State) : State := withCfg (fun c => { c with fltFirTaps := BitVec.ofNat 32 n }) s

/-- A band from 1 Hz up, and a window that is 1 everywhere. -/
def wideBand (high : Word) (n : Nat) (s : State) : State :=
  { withCfg (fun c => { c with fltBpLow := 0x3F800000#32, fltBpHigh := high }) (withTaps n s) with
    par := { Config.reference with kaiserBeta := .rat 0 } }

/-- A state to which one input is sent. -/
def sent (x : HostInput) (s : State) : State := { s with pending := [x] }

theorem witness_DecodeOfEncodeIsTheCommand :
    (Instr.formimg 15#4 15#4 1#4).wf = true ∧ (Instr.formimg 0#4 0#4 15#4).wf = true ∧ Instr.nop.wf = true := by decide

theorem witness_EncodeOfDecodeIsTheWord : decode 0x60FF000F#32 = .ok (.formimg 15#4 15#4 15#4) := by rfl

theorem witness_DecodesExactlyTheTableRows :
    (0x60FF0001#32 &&& Opcode.formimg.mask = Opcode.formimg.matchWord
      ∧ (Opcode.formimg = .formimg → (0x60FF0001#32).extractLsb' 0 4 ≠ 0#4))
    ∧ decode 0x60FF0001#32 = .ok (.formimg 15#4 15#4 1#4) := ⟨by decide, rfl⟩

theorem witness_UndecodableWordsAreNamedByRule :
    (∀ o : Opcode, o.code ≠ (0x04000000#32).extractLsb' 24 8)
    ∧ (Opcode.demod.code = (0x10100001#32).extractLsb' 24 8
        ∧ 0x10100001#32 &&& Opcode.demod.mask ≠ Opcode.demod.matchWord)
    ∧ (0x60100000#32 &&& Opcode.formimg.mask = Opcode.formimg.matchWord
        ∧ (0x60100000#32).extractLsb' 0 4 = 0#4) :=
  ⟨fun o => by cases o <;> decide, by decide, by decide⟩

theorem witness_StepRunsTheDecodedCommand :
    decode 0x10100000#32 = .ok (.demod 1#4 0#4)
    ∧ (sent (.regWrite Reg.cmd.index 0x10100000#32) State.reset).pending = .regWrite Reg.cmd.index 0x10100000#32 :: [] :=
  ⟨rfl, rfl⟩

theorem witness_UndecodableWordOnlyReports :
    (sent (.regWrite Reg.cmd.index 0x7F000000#32) State.reset).pending = .regWrite Reg.cmd.index 0x7F000000#32 :: []
    ∧ decode 0x7F000000#32 = .error .reservedOpcode
    ∧ (sent (.regWrite Reg.cmd.index 0x60100000#32) State.reset).pending = .regWrite Reg.cmd.index 0x60100000#32 :: []
    ∧ decode 0x60100000#32 = .error .reservedField := ⟨rfl, rfl, rfl, rfl⟩

theorem witness_BadSlotFailsInDecode :
    ∃ x ∈ (Instr.combine 0#4 7#4 8#4).slotFields, State.reset.par.nslot ≤ x.toNat := by decide

theorem witness_EveryAccessCompletes :
    State.reset.pending = [] ∧ (sent .reset State.reset).pending = .reset :: [] := ⟨rfl, rfl⟩

theorem witness_BopenOpensAnEmptySlot :
    (7#4).toNat < rated.par.nslot ∧ rated.openV = false ∧ dec rated.cfg.sdrSampleRate = some 48000 ∧ (0 : Rat) < 48000 := by
  decide +kernel

theorem witness_BcloseMakesTheLoadValid :
    (loading { rate := 1, chan := 0#2, data := .real [] }).openV = true
    ∧ slotAt (loading { rate := 1, chan := 0#2, data := .real [] }) 0#4 = .opened { rate := 1, chan := 0#2, data := .real [] }
    ∧ (loading { rate := 1, chan := 0#2, data := .real [] }).wpend = none := by decide +kernel

theorem witness_LoadCommandsCheckInOrder :
    (∃ s : State, (1#4).toNat < s.par.nslot ∧ s.openV = true)
    ∧ (∃ s : State, (1#4).toNat < s.par.nslot ∧ s.openV = false ∧ dec s.cfg.sdrSampleRate = none)
    ∧ (∃ s : State, (1#4).toNat < s.par.nslot ∧ s.openV = false ∧ dec s.cfg.sdrSampleRate = some 0 ∧ (0 : Rat) ≤ 0)
    ∧ State.reset.openV = false
    ∧ ∃ s : State, s.openV = true ∧ slotAt s s.openSlot = .opened { rate := 1, chan := 0#2, data := .complex [] }
      ∧ s.wpend ≠ none :=
  ⟨⟨loading { rate := 1, chan := 0#2, data := .real [] }, by decide +kernel⟩,
    ⟨withCfg (fun c => { c with sdrSampleRate := 0x7F800000#32 }) State.reset, by decide +kernel⟩,
    ⟨State.reset, by decide +kernel⟩, rfl,
    setPending (some 3) (loading { rate := 1, chan := 0#2, data := .complex [] }), by decide +kernel⟩

theorem witness_BfreeEmptiesTheSlot : (7#4).toNat < State.reset.par.nslot := by decide

theorem witness_SourcesMustBeValid :
    (Instr.demod 1#4 0#4).slotsExist State.reset.par.nslot = true
    ∧ (∃ a ∈ (Instr.demod 1#4 0#4).sources, ∀ b, slotAt State.reset a ≠ .valid b)
    ∧ ∃ a ∈ (Instr.demod 1#4 0#4).sources,
        ∀ b, slotAt (loading { rate := 1, chan := 0#2, data := .real [] }) a ≠ .valid b := by
  refine ⟨by decide, ⟨0#4, by decide, fun b h => ?_⟩, 0#4, by decide, fun b h => ?_⟩
  · exact absurd ((show slotAt State.reset 0#4 = .empty from rfl).symm.trans h) (by simp)
  · exact absurd ((show slotAt (loading { rate := 1, chan := 0#2, data := .real [] }) 0#4
      = .opened { rate := 1, chan := 0#2, data := .real [] } from rfl).symm.trans h) (by simp)

theorem witness_KindsFollowTheTable :
    ((Instr.demod 1#4 0#4).slotsExist State.reset.par.nslot = true
      ∧ slotAt (one (imageBuf 1 1 [0#8])) 0#4 = .valid (imageBuf 1 1 [0#8])
      ∧ takesKind (.demod 1#4 0#4) (contentKind (imageBuf 1 1 [0#8])) = false)
    ∧ (exec (.demod 1#4 0#4) (one (complexBuf 1 [])) = .next (after (.demod 1#4 0#4) (one (complexBuf 1 [])))
      ∧ (after (.demod 1#4 0#4) (one (complexBuf 1 []))).err = .ok
      ∧ (Instr.demod 1#4 0#4).sources.head? = some 0#4 ∧ slotAt (one (complexBuf 1 [])) 0#4 = .valid (complexBuf 1 [])
      ∧ (Instr.demod 1#4 0#4).dst = some 1#4
      ∧ resultKind (.demod 1#4 0#4) (contentKind (complexBuf 1 [])) = some .real) :=
  ⟨by decide +kernel, exec_after _ _, by decide +kernel⟩

theorem witness_DemodOfComplexStoresMagnitudes :
    (∃ s : State, (Instr.demod 7#4 0#4).slotsExist s.par.nslot = true ∧ slotAt s 0#4 = .valid (complexBuf 48000 [(3, 4)])
      ∧ ∀ z ∈ [((3 : Rat), (4 : Rat))], (rndRoot (z.1 * z.1 + z.2 * z.2)).isSome = true)
    ∧ ∃ s : State, (Instr.demod 7#4 0#4).slotsExist s.par.nslot = true ∧ slotAt s 0#4 = .valid (complexBuf 48000 [(maxF, maxF)])
      ∧ ∃ z ∈ [(maxF, maxF)], rndRoot (z.1 * z.1 + z.2 * z.2) = none :=
  ⟨⟨one (complexBuf 48000 [(3, 4)]), by decide +kernel⟩, one (complexBuf 48000 [(maxF, maxF)]), by decide +kernel⟩

theorem witness_DemodOfRealStoresTheHilbertEnvelope :
    (∃ s : State, (Instr.demod 7#4 0#4).slotsExist s.par.nslot = true ∧ slotAt s 0#4 = .valid (realBuf 48000 [1, 2, -1])
      ∧ ∀ v ∈ numHenv s.par [1, 2, -1], v.rnd.isSome = true)
    ∧ ∃ s : State, (Instr.demod 7#4 0#4).slotsExist s.par.nslot = true
      ∧ slotAt s 0#4 = .valid (realBuf 48000 [maxF / 2, maxF, -maxF / 2])
      ∧ ∃ v ∈ numHenv s.par [maxF / 2, maxF, -maxF / 2], v.rnd = none :=
  ⟨⟨one (realBuf 48000 [1, 2, -1]), by decide +kernel⟩, one (realBuf 48000 [maxF / 2, maxF, -maxF / 2]), by decide +kernel⟩

/-- A block whose anti-aliasing filter is short and not windowed. -/
def shortFilter : Config.Params := { Config.reference with aaZc := 2, kaiserBeta := .rat 0 }

theorem witness_DecimKeepsEveryQthFilteredSample :
    (∃ s : State, (Instr.decim 7#4 0#4).slotsExist s.par.nslot = true
      ∧ slotAt s 0#4 = .valid (.signal { rate := 20800, chan := 0#2, data := .real [1] })
      ∧ dec s.cfg.decAudioRate = some 20800 ∧ (0 : Rat) < 20800 ∧ ((1 : Nat) : Int) = ((20800 : Rat) / 20800).floor
      ∧ 1 ≤ (.real [1] : Samples).length ∧ rndRat ((20800 : Rat) / (1 : Nat)) = some 20800
      ∧ partsFit ((.real [1] : Samples).length / 1)
          (fun x j => if 1 = 1 then rndRat (x.getD j 0) else (lowpassConvolution s.par (numAntialias s.par 1) x (j * 1)).rnd) (.real [1]) = true)
    ∧ (∃ s : State, (Instr.decim 7#4 0#4).slotsExist s.par.nslot = true
      ∧ slotAt s 0#4 = .valid (.signal { rate := 41600, chan := 0#2, data := .complex [(0, 0), (-1, 0), (0, 0), (1, 1), (1, 1), (1, 0), (0, 0), (-1, 0)] })
      ∧ dec s.cfg.decAudioRate = some 20800 ∧ (0 : Rat) < 20800 ∧ ((2 : Nat) : Int) = ((41600 : Rat) / 20800).floor
      ∧ 2 ≤ (.complex [(0, 0), (-1, 0), (0, 0), (1, 1), (1, 1), (1, 0), (0, 0), (-1, 0)] : Samples).length ∧ rndRat ((41600 : Rat) / (2 : Nat)) = some 20800
      ∧ partsFit ((.complex [(0, 0), (-1, 0), (0, 0), (1, 1), (1, 1), (1, 0), (0, 0), (-1, 0)] : Samples).length / 2)
          (fun x j => if 2 = 1 then rndRat (x.getD j 0) else (lowpassConvolution s.par (numAntialias s.par 2) x (j * 2)).rnd) (.complex [(0, 0), (-1, 0), (0, 0), (1, 1), (1, 1), (1, 0), (0, 0), (-1, 0)]) = true)
    ∧ ∃ s : State, (Instr.decim 7#4 0#4).slotsExist s.par.nslot = true
      ∧ slotAt s 0#4 = .valid (.signal { rate := 41600, chan := 0#2, data := .real [0, -maxF, 0, maxF, maxF, maxF, 0, -maxF] })
      ∧ dec s.cfg.decAudioRate = some 20800 ∧ (0 : Rat) < 20800 ∧ ((2 : Nat) : Int) = ((41600 : Rat) / 20800).floor
      ∧ 2 ≤ (.real [0, -maxF, 0, maxF, maxF, maxF, 0, -maxF] : Samples).length ∧ rndRat ((41600 : Rat) / (2 : Nat)) = some 20800
      ∧ partsFit ((.real [0, -maxF, 0, maxF, maxF, maxF, 0, -maxF] : Samples).length / 2)
          (fun x j => if 2 = 1 then rndRat (x.getD j 0) else (lowpassConvolution s.par (numAntialias s.par 2) x (j * 2)).rnd) (.real [0, -maxF, 0, maxF, maxF, maxF, 0, -maxF]) = false :=
  ⟨⟨{ one (.signal { rate := 20800, chan := 0#2, data := .real [1] }) with par := shortFilter }, by decide +kernel⟩,
    ⟨{ one (.signal { rate := 41600, chan := 0#2, data := .complex [(0, 0), (-1, 0), (0, 0), (1, 1), (1, 1), (1, 0), (0, 0), (-1, 0)] }) with par := shortFilter }, by decide +kernel⟩,
    { one (.signal { rate := 41600, chan := 0#2, data := .real [0, -maxF, 0, maxF, maxF, maxF, 0, -maxF] }) with par := shortFilter }, by decide +kernel⟩

theorem witness_DecimChecksInOrder :
    (∃ s : State, (Instr.decim 7#4 0#4).slotsExist s.par.nslot = true ∧ slotAt s 0#4 = .valid (realBuf 20800 [])
      ∧ (0 : Rat) < 20800 ∧ dec s.cfg.decAudioRate = none)
    ∧ (∃ s : State, (Instr.decim 7#4 0#4).slotsExist s.par.nslot = true ∧ slotAt s 0#4 = .valid (realBuf 20800 [])
      ∧ (0 : Rat) < 20800 ∧ dec s.cfg.decAudioRate = some 0 ∧ (0 : Rat) ≤ 0)
    ∧ (∃ s : State, (Instr.decim 7#4 0#4).slotsExist s.par.nslot = true ∧ slotAt s 0#4 = .valid (realBuf 20800 [])
      ∧ (0 : Rat) < 20800 ∧ dec s.cfg.decAudioRate = some 48000 ∧ (0 : Rat) < 48000 ∧ (20800 : Rat) < 48000)
    ∧ (∃ s : State, (Instr.decim 7#4 0#4).slotsExist s.par.nslot = true ∧ slotAt s 0#4 = .valid (realBuf 20800 [])
      ∧ (0 : Rat) < 20800 ∧ dec s.cfg.decAudioRate = some 20800 ∧ (20800 : Rat) ≤ 20800 ∧ (((Samples.real []).length : Nat) : Int) < ((20800 : Rat) / 20800).floor) :=
  ⟨⟨withCfg (fun c => { c with decAudioRate := 0x7FC00000#32 }) (one (realBuf 20800 [])), by decide +kernel⟩,
    ⟨withCfg (fun c => { c with decAudioRate := 0x00000000#32 }) (one (realBuf 20800 [])), by decide +kernel⟩,
    ⟨withCfg (fun c => { c with decAudioRate := 0x473B8000#32 }) (one (realBuf 20800 [])), by decide +kernel⟩,
    ⟨withCfg (fun c => { c with decAudioRate := 0x46A28000#32 }) (one (realBuf 20800 [])), by decide +kernel⟩⟩

theorem witness_ResampStoresThePixelStream :
    (∃ s : State, (Instr.resamp 7#4 0#4).slotsExist s.par.nslot = true
      ∧ slotAt s 0#4 = .valid (realBuf 4160 [1, 1])
      ∧ dec s.cfg.decLineRate = some 2 ∧ (0 : Rat) < 2 * (s.cfg.decPixelsPerLine.toNat : Rat)
      ∧ rndRat (2 * (s.cfg.decPixelsPerLine.toNat : Rat)) = some 8320
      ∧ ((4 : Nat) : Int) = rhe ((([1, 1] : List Rat).length : Rat) * 8320 / 4160) ∧ 4 ≤ s.par.maxlen
      ∧ ∀ y ∈ numResample s.par [1, 1] 4160 8320 4, y.rnd.isSome = true)
    ∧ (∃ s : State, (Instr.resamp 7#4 0#4).slotsExist s.par.nslot = true
      ∧ slotAt s 0#4 = .valid (realBuf 4160 [maxF, maxF])
      ∧ dec s.cfg.decLineRate = some 2 ∧ (0 : Rat) < 2 * (s.cfg.decPixelsPerLine.toNat : Rat)
      ∧ rndRat (2 * (s.cfg.decPixelsPerLine.toNat : Rat)) = some 8320
      ∧ ((4 : Nat) : Int) = rhe ((([maxF, maxF] : List Rat).length : Rat) * 8320 / 4160) ∧ 4 ≤ s.par.maxlen
      ∧ ∃ y ∈ numResample s.par [maxF, maxF] 4160 8320 4, y.rnd = none) :=
  ⟨⟨one (realBuf 4160 [1, 1]), by decide +kernel⟩, ⟨one (realBuf 4160 [maxF, maxF]), by decide +kernel⟩⟩

theorem witness_ResampChecksInOrder :
    (∃ s : State, (Instr.resamp 7#4 0#4).slotsExist s.par.nslot = true
      ∧ slotAt s 0#4 = .valid (realBuf 8320 [1, 2]) ∧ dec s.cfg.decLineRate = none)
    ∧ (∃ s : State, (Instr.resamp 7#4 0#4).slotsExist s.par.nslot = true
      ∧ slotAt s 0#4 = .valid (realBuf 8320 [1, 2]) ∧ dec s.cfg.decLineRate = some 2 ∧ 2 * (s.cfg.decPixelsPerLine.toNat : Rat) ≤ 0)
    ∧ (∃ s : State, (Instr.resamp 7#4 0#4).slotsExist s.par.nslot = true
      ∧ slotAt s 0#4 = .valid (realBuf 8320 [1, 2]) ∧ dec s.cfg.decLineRate = some maxF ∧ 0 < maxF * (s.cfg.decPixelsPerLine.toNat : Rat)
      ∧ rndRat (maxF * (s.cfg.decPixelsPerLine.toNat : Rat)) = none)
    ∧ (∃ s : State, (Instr.resamp 7#4 0#4).slotsExist s.par.nslot = true
      ∧ slotAt s 0#4 = .valid (realBuf 8320 [1, 2]) ∧ dec s.cfg.decLineRate = some 2 ∧ 0 < 2 * (s.cfg.decPixelsPerLine.toNat : Rat)
      ∧ rndRat (2 * (s.cfg.decPixelsPerLine.toNat : Rat)) = some 8320
      ∧ (s.par.maxlen : Int) < rhe (([(1 : Rat), 2].length : Rat) * 8320 / 8320)) :=
  ⟨⟨withCfg (fun c => { c with decLineRate := 0x7F800000#32 }) (one (realBuf 8320 [1, 2])), by decide +kernel⟩,
    ⟨withCfg (fun c => { c with decPixelsPerLine := 0#32 }) (one (realBuf 8320 [1, 2])), by decide +kernel⟩,
    ⟨withCfg (fun c => { c with decLineRate := 0x7F7FFFFF#32 }) (one (realBuf 8320 [1, 2])), by decide +kernel⟩,
    ⟨{ one (realBuf 8320 [1, 2]) with par := { Config.reference with maxlen := 1 } }, by decide +kernel⟩⟩

theorem witness_BpdesignStoresTheFilter :
    ∃ s : State, (0#4).toNat < s.par.nslot ∧ slotAt s 0#4 = .valid (realBuf 20800 [])
      ∧ dec s.cfg.fltBpLow = some 2300 ∧ dec s.cfg.fltBpHigh = some 2500
      ∧ (0 : Rat) < 2300 ∧ (2300 : Rat) < 2500 ∧ (2500 : Rat) < 20800 / 2
      ∧ s.cfg.fltFirTaps.toNat % 2 = 1 ∧ s.cfg.fltFirTaps.toNat ≤ s.par.maxtaps
      ∧ ∀ c ∈ numBpdesign s.par 2300 2500 20800 s.cfg.fltFirTaps.toNat, c.rnd.isSome = true :=
  ⟨withTaps 3 (one (realBuf 20800 [])), by decide +kernel⟩

theorem witness_DesignChecksInOrder :
    ((Samples.real []).kind = .real ∧ ∃ d ch, Instr.extract 7#4 0#4 2#2 = .extract d 0#4 ch)
    ∧ (∃ s : State, (Instr.extract 7#4 0#4 2#2).slotsExist s.par.nslot = true ∧ slotAt s 0#4 = .valid (realBuf 5000 []) ∧ (dec s.cfg.fltBpLow = none ∨ dec s.cfg.fltBpHigh = none))
    ∧ (∃ s : State, (Instr.bpdesign 0#4).slotsExist s.par.nslot = true ∧ slotAt s 0#4 = .valid (complexBuf 5000 []) ∧ dec s.cfg.fltBpLow = some 2500 ∧ dec s.cfg.fltBpHigh = some 2500
      ∧ ¬ ((0 : Rat) < 2500 ∧ (2500 : Rat) < 2500))
    ∧ (∃ s : State, (Instr.bpdesign 0#4).slotsExist s.par.nslot = true ∧ slotAt s 0#4 = .valid (complexBuf 5000 []) ∧ dec s.cfg.fltBpLow = some 2300 ∧ dec s.cfg.fltBpHigh = some 2500
      ∧ (0 : Rat) < 2300 ∧ (2300 : Rat) < 2500 ∧ (5000 : Rat) / 2 ≤ 2500)
    ∧ (∃ s : State, (Instr.extract 7#4 0#4 2#2).slotsExist s.par.nslot = true ∧ slotAt s 0#4 = .valid (realBuf 20800 []) ∧ dec s.cfg.fltBpLow = some 2300 ∧ dec s.cfg.fltBpHigh = some 2500
      ∧ (0 : Rat) < 2300 ∧ (2300 : Rat) < 2500 ∧ (2500 : Rat) < 20800 / 2 ∧ s.cfg.fltFirTaps.toNat % 2 = 0)
    ∧ (∃ s : State, (Instr.bpdesign 0#4).slotsExist s.par.nslot = true ∧ slotAt s 0#4 = .valid (realBuf 20800 []) ∧ dec s.cfg.fltBpLow = some 2300 ∧ dec s.cfg.fltBpHigh = some 2500
      ∧ (0 : Rat) < 2300 ∧ (2300 : Rat) < 2500 ∧ (2500 : Rat) < 20800 / 2 ∧ s.par.maxtaps < s.cfg.fltFirTaps.toNat) :=
  ⟨⟨rfl, 7#4, 2#2, rfl⟩, ⟨withCfg (fun c => { c with fltBpHigh := 0x7F800000#32 }) (one (realBuf 5000 [])), by decide +kernel⟩,
    ⟨withCfg (fun c => { c with fltBpLow := 0x451C4000#32 }) (one (complexBuf 5000 [])), by decide +kernel⟩,
    ⟨one (complexBuf 5000 []), by decide +kernel⟩,
    ⟨one (realBuf 20800 []), by decide +kernel⟩,
    ⟨withTaps 1025 (one (realBuf 20800 [])), by decide +kernel⟩⟩

/-- The clause on a coefficient that overflows: only an uninterpreted `NUM` can have one, so the witness rests on a value of
it, which nothing fixes. -/
theorem witness_DesignChecksInOrder_overflow (h : Config.bpdesignValue (.rat 5) 2300 2500 20800 1 0 = 2 ^ 200) :
    ∃ s : State, (Instr.bpdesign 0#4).slotsExist s.par.nslot = true ∧ slotAt s 0#4 = .valid (realBuf 20800 [])
      ∧ dec s.cfg.fltBpLow = some 2300 ∧ dec s.cfg.fltBpHigh = some 2500
      ∧ (0 : Rat) < 2300 ∧ (2300 : Rat) < 2500 ∧ (2500 : Rat) < 20800 / 2
      ∧ s.cfg.fltFirTaps.toNat % 2 = 1 ∧ s.cfg.fltFirTaps.toNat ≤ s.par.maxtaps
      ∧ (Instr.bpdesign 0#4 = .bpdesign 0#4 ∨ s.cfg.fltFirTaps.toNat ≤ (Samples.real []).length)
      ∧ ∃ c ∈ numBpdesign s.par 2300 2500 20800 s.cfg.fltFirTaps.toNat, c.rnd = none :=
  ⟨{ withTaps 1 (one (realBuf 20800 [])) with par := { Config.reference with num := .implementation } },
    by decide +kernel, by decide +kernel, by decide +kernel, by decide +kernel, by decide +kernel, by decide +kernel,
    by decide +kernel, by decide +kernel, by decide +kernel, .inl rfl, .rat (2 ^ 200), by
      show Exact.rat (2 ^ 200) ∈ [Exact.rat (Config.bpdesignValue (.rat 5) 2300 2500 20800 1 0)]
      rw [h]; exact List.mem_singleton.mpr rfl, by decide +kernel⟩

theorem witness_BpapplyConvolves :
    (∃ s : State, (Instr.bpapply 7#4 0#4).slotsExist s.par.nslot = true
      ∧ slotAt s 0#4 = .valid (.signal { rate := 8320, chan := 0#2, data := .real [4, 8, 12] })
      ∧ s.fspec.valid = true ∧ s.fspec.fs = 8320 ∧ s.fspec.taps ≤ (.real [4, 8, 12] : Samples).length
      ∧ partsFit (.real [4, 8, 12] : Samples).length (fun x n => rndRat (convolution s.fspec.coef x n)) (.real [4, 8, 12]) = true)
    ∧ (∃ s : State, (Instr.bpapply 7#4 0#4).slotsExist s.par.nslot = true
      ∧ slotAt s 0#4 = .valid (.signal { rate := 8320, chan := 0#2, data := .complex [(4, 4), (8, 8), (12, 12)] })
      ∧ s.fspec.valid = true ∧ s.fspec.fs = 8320 ∧ s.fspec.taps ≤ (.complex [(4, 4), (8, 8), (12, 12)] : Samples).length
      ∧ partsFit (.complex [(4, 4), (8, 8), (12, 12)] : Samples).length (fun x n => rndRat (convolution s.fspec.coef x n)) (.complex [(4, 4), (8, 8), (12, 12)]) = true)
    ∧ (∃ s : State, (Instr.bpapply 7#4 0#4).slotsExist s.par.nslot = true
      ∧ slotAt s 0#4 = .valid (.signal { rate := 8320, chan := 0#2, data := .real [maxF, maxF, maxF] })
      ∧ s.fspec.valid = true ∧ s.fspec.fs = 8320 ∧ s.fspec.taps ≤ (.real [maxF, maxF, maxF] : Samples).length
      ∧ partsFit (.real [maxF, maxF, maxF] : Samples).length (fun x n => rndRat (convolution s.fspec.coef x n)) (.real [maxF, maxF, maxF]) = false) :=
  ⟨⟨withFilter [1, 1, 1] (one (.signal { rate := 8320, chan := 0#2, data := .real [4, 8, 12] })), by decide +kernel⟩,
    ⟨withFilter [1, 1, 1] (one (.signal { rate := 8320, chan := 0#2, data := .complex [(4, 4), (8, 8), (12, 12)] })), by decide +kernel⟩,
    ⟨withFilter [1, 1, 1] (one (.signal { rate := 8320, chan := 0#2, data := .real [maxF, maxF, maxF] })), by decide +kernel⟩⟩

theorem witness_BpapplyChecksInOrder :
    (∃ s : State, (Instr.bpapply 7#4 0#4).slotsExist s.par.nslot = true ∧ slotAt s 0#4 = .valid (realBuf 8320 [4, 8]) ∧ s.fspec.valid = false)
    ∧ (∃ s : State, (Instr.bpapply 7#4 0#4).slotsExist s.par.nslot = true ∧ slotAt s 0#4 = .valid (realBuf 20800 []) ∧ s.fspec.valid = true ∧ s.fspec.fs ≠ 20800)
    ∧ (∃ s : State, (Instr.bpapply 7#4 0#4).slotsExist s.par.nslot = true ∧ slotAt s 0#4 = .valid (realBuf 8320 [4, 8]) ∧ s.fspec.valid = true ∧ s.fspec.fs = 8320
      ∧ (Samples.real [4, 8]).length < s.fspec.taps) :=
  ⟨⟨one (realBuf 8320 [4, 8]), by decide +kernel⟩,
    ⟨withFilter [1, 1, 1] (one (realBuf 20800 [])), by decide +kernel⟩,
    ⟨withFilter [1, 1, 1] (one (realBuf 8320 [4, 8])), by decide +kernel⟩⟩

theorem witness_AgcScalesByTheClampedGain :
    (∃ s : State, (Instr.agc 7#4 0#4).slotsExist s.par.nslot = true ∧ slotAt s 0#4 = .valid (complexBuf 1 [(3, 4)]) ∧ dec s.cfg.agcTarget = none)
    ∧ (∃ s : State, (Instr.agc 7#4 0#4).slotsExist s.par.nslot = true ∧ slotAt s 0#4 = .valid (complexBuf 1 [(maxF, maxF)]) ∧ dec s.cfg.agcTarget = some 1
      ∧ rndAll (envelope s.par (.complex [(maxF, maxF)])) = none)
    ∧ (∃ s : State, (Instr.agc 7#4 0#4).slotsExist s.par.nslot = true ∧ slotAt s 0#4 = .valid (complexBuf 1 [(3, 4)]) ∧ dec s.cfg.agcTarget = some 1 ∧ rndAll (envelope s.par (.complex [(3, 4)])) = some [5]
      ∧ ∃ g : Nat → Rat, (∀ n, g n = min 10 (max (1 / 10) (1 / max
          (median ((List.range (agcWindow [(5 : Rat)].length)).map fun j =>
            zext [5] ((n : Int) + (j : Int) - (((agcWindow [(5 : Rat)].length - 1) / 2 : Nat) : Int)))) (1 / 10 ^ 10))))
        ∧ partsFit 1 (fun x n => rndRat (x.getD n 0 * g n)) (.complex [(3, 4)]) = true)
    ∧ (∃ s : State, (Instr.agc 7#4 0#4).slotsExist s.par.nslot = true ∧ slotAt s 0#4 = .valid (complexBuf 1 [(maxF, 0)]) ∧ dec s.cfg.agcTarget = some 1 ∧ rndAll (envelope s.par (.complex [(maxF, 0)])) = some [maxF]
      ∧ ∃ g : Nat → Rat, (∀ n, g n = min 10 (max (1 / 10) (1 / max
          (median ((List.range (agcWindow [(maxF : Rat)].length)).map fun j =>
            zext [maxF] ((n : Int) + (j : Int) - (((agcWindow [(maxF : Rat)].length - 1) / 2 : Nat) : Int)))) (1 / 10 ^ 10))))
        ∧ partsFit 1 (fun x n => rndRat (x.getD n 0 * g n)) (.complex [(maxF, 0)]) = false) :=
  ⟨⟨withCfg (fun c => { c with agcTarget := 0x7FC00000#32 }) (one (complexBuf 1 [(3, 4)])), by decide +kernel⟩,
    ⟨one (complexBuf 1 [(maxF, maxF)]), by decide +kernel⟩,
    ⟨one (complexBuf 1 [(3, 4)]), by decide +kernel, by decide +kernel, by decide +kernel, by decide +kernel, _, fun _ => rfl, by decide +kernel⟩,
    ⟨one (complexBuf 1 [(maxF, 0)]), by decide +kernel, by decide +kernel, by decide +kernel, by decide +kernel, _, fun _ => rfl, by decide +kernel⟩⟩

theorem witness_AgcGainIsBounded :
    agcGain (-1) 5 ∈ agcGains (-1) [5, 5, 5] ∧ agcGain 100 5 ∈ agcGains 100 [5, 5, 5] := by decide +kernel

/-- V49a. -/
theorem witness_AgcWindowFollowsTheRule :
    (max 3 (0 / 100) % 2 = 1 ∧ max 3 (400 / 100) % 2 = 0)
    ∧ agcWindow 399 = 3 ∧ agcWindow 400 = 5 ∧ agcWindow 599 = 5 ∧ agcWindow 600 = 7 ∧ agcWindow 799 = 7
    ∧ agcWindow 300 = 3 ∧ agcWindow 1000 = 11 ∧ agcWindow 2400000 = 24001 := by decide

theorem witness_MedianIsTheMiddleElement :
    [(5 : Rat), 0, 10].length % 2 = 1 ∧ [(0 : Rat), 5, 10].Perm [5, 0, 10] ∧ [(0 : Rat), 5, 10].Pairwise (· ≤ ·) :=
  ⟨by decide, .swap 5 0 [10], by decide +kernel⟩

theorem witness_DcremSubtractsTheMean :
    (∃ s : State, (Instr.dcrem 7#4 0#4).slotsExist s.par.nslot = true ∧ slotAt s 0#4 = .valid (realBuf 1 [(1 : Rat), 2, 3, 6])
      ∧ ∀ x ∈ [(1 : Rat), 2, 3, 6], (rndRat (x - [(1 : Rat), 2, 3, 6].sum / ([(1 : Rat), 2, 3, 6].length : Rat))).isSome = true)
    ∧ (∃ s : State, (Instr.dcrem 7#4 0#4).slotsExist s.par.nslot = true ∧ slotAt s 0#4 = .valid (realBuf 1 [maxF, -maxF, -maxF])
      ∧ ∃ x ∈ [maxF, -maxF, -maxF], rndRat (x - [maxF, -maxF, -maxF].sum / ([maxF, -maxF, -maxF].length : Rat)) = none) :=
  ⟨⟨one (realBuf 1 [(1 : Rat), 2, 3, 6]), by decide +kernel⟩, ⟨one (realBuf 1 [maxF, -maxF, -maxF]), by decide +kernel⟩⟩

/-- The start of V59. -/
def v59 : State := withTaps 1 (one (realBuf 20800 [52, 104, -52]))

theorem witness_ExtractFiltersDemodulatesAndCentres :
    ∃ coef y1 y2 out : List Rat,
      (Instr.extract 2#4 0#4 1#2).slotsExist v59.par.nslot = true
      ∧ slotAt v59 0#4 = .valid (realBuf 20800 [52, 104, -52])
      ∧ dec v59.cfg.fltBpLow = some 2300 ∧ dec v59.cfg.fltBpHigh = some 2500
      ∧ (0 : Rat) < 2300 ∧ (2300 : Rat) < 2500 ∧ (2500 : Rat) < 20800 / 2
      ∧ v59.cfg.fltFirTaps.toNat = 1 ∧ 1 ≤ v59.par.maxtaps ∧ 1 ≤ [(52 : Rat), 104, -52].length
      ∧ (numBpdesign v59.par 2300 2500 20800 1).map Exact.rnd = coef.map some
      ∧ (List.range 3).map (fun n => rndRat (convolution coef [52, 104, -52] n)) = y1.map some
      ∧ (numHenv v59.par y1).map Exact.rnd = y2.map some
      ∧ y2.map (fun v => rndRat (v - y2.sum / (y2.length : Rat))) = out.map some :=
  ⟨[(dec 0x3C9D89D9#32).getD 0], [1, 2, -1], (numHenv v59.par [1, 2, -1]).map fun v => v.rnd.getD 0,
    [(dec 0x3E36EB85#32).getD 0, (dec 0x3EF9DF93#32).getD 0, (dec 0xBF2AAAAB#32).getD 0], by decide +kernel⟩

theorem witness_ExtractEqualsTheFourCommands :
    ∃ s1 s2 s3 s4 t : State,
      (7#4).toNat < v59.par.nslot ∧ slotAt v59 0#4 = .valid (realBuf 20800 [52, 104, -52])
      ∧ exec (.bpdesign 0#4) v59 = .next s1 ∧ exec (.bpapply 1#4 0#4) s1 = .next s2
      ∧ exec (.demod 2#4 1#4) s2 = .next s3 ∧ exec (.dcrem 7#4 2#4) s3 = .next s4
      ∧ exec (.extract 7#4 0#4 1#2) v59 = .next t ∧ t.err = .ok :=
  ⟨_, _, _, _, _, by decide, by decide +kernel, exec_after _ _, exec_after _ _, exec_after _ _, exec_after _ _, exec_after _ _,
    by decide +kernel⟩

theorem witness_ExtractReportsTheFailingStep :
    (∃ s : State, (Instr.extract 7#4 0#4 1#2).slotsExist s.par.nslot = true ∧ slotAt s 0#4 = .valid (realBuf 20800 [1, 2])
      ∧ dec s.cfg.fltBpLow = some 2300 ∧ dec s.cfg.fltBpHigh = some 2500 ∧ (0 : Rat) < 2300 ∧ (2300 : Rat) < 2500
      ∧ (2500 : Rat) < 20800 / 2 ∧ s.cfg.fltFirTaps.toNat % 2 = 1 ∧ s.cfg.fltFirTaps.toNat ≤ s.par.maxtaps
      ∧ [(1 : Rat), 2].length < s.cfg.fltFirTaps.toNat)
    ∧ (∃ (s : State) (coef : List Rat), (Instr.extract 7#4 0#4 1#2).slotsExist s.par.nslot = true ∧ slotAt s 0#4 = .valid (realBuf 20800 [maxF, maxF, maxF])
      ∧ dec s.cfg.fltBpLow = some 1 ∧ dec s.cfg.fltBpHigh = some 5200 ∧ (0 : Rat) < 1 ∧ (1 : Rat) < 5200
      ∧ (5200 : Rat) < 20800 / 2 ∧ s.cfg.fltFirTaps.toNat % 2 = 1 ∧ s.cfg.fltFirTaps.toNat ≤ s.par.maxtaps
      ∧ s.cfg.fltFirTaps.toNat ≤ [maxF, maxF, maxF].length
      ∧ (numBpdesign s.par 1 5200 20800 s.cfg.fltFirTaps.toNat).map Exact.rnd = coef.map some
      ∧ ∃ n, n < [maxF, maxF, maxF].length ∧ rndRat (convolution coef [maxF, maxF, maxF] n) = none)
    ∧ (∃ (s : State) (coef y1 : List Rat), (Instr.extract 7#4 0#4 1#2).slotsExist s.par.nslot = true ∧ slotAt s 0#4 = .valid (realBuf 20800 [maxF / 2, maxF, -maxF / 2])
      ∧ dec s.cfg.fltBpLow = some 1 ∧ dec s.cfg.fltBpHigh = some 10000 ∧ (0 : Rat) < 1 ∧ (1 : Rat) < 10000
      ∧ (10000 : Rat) < 20800 / 2 ∧ s.cfg.fltFirTaps.toNat % 2 = 1 ∧ s.cfg.fltFirTaps.toNat ≤ s.par.maxtaps
      ∧ s.cfg.fltFirTaps.toNat ≤ [maxF / 2, maxF, -maxF / 2].length
      ∧ (numBpdesign s.par 1 10000 20800 s.cfg.fltFirTaps.toNat).map Exact.rnd = coef.map some
      ∧ (List.range [maxF / 2, maxF, -maxF / 2].length).map (fun n => rndRat (convolution coef [maxF / 2, maxF, -maxF / 2] n)) = y1.map some
      ∧ ∃ v ∈ numHenv s.par y1, v.rnd = none)
    ∧ ∃ (s : State) (coef y1 : List Rat), (Instr.extract 7#4 0#4 1#2).slotsExist s.par.nslot = true ∧ slotAt s 0#4 = .valid (realBuf 20800 [52, 104, -52])
      ∧ dec s.cfg.fltBpLow = some 2300 ∧ dec s.cfg.fltBpHigh = some 2500 ∧ (0 : Rat) < 2300 ∧ (2300 : Rat) < 2500
      ∧ (2500 : Rat) < 20800 / 2 ∧ s.cfg.fltFirTaps.toNat % 2 = 1 ∧ s.cfg.fltFirTaps.toNat ≤ s.par.maxtaps
      ∧ s.cfg.fltFirTaps.toNat ≤ [(52 : Rat), 104, -52].length
      ∧ (numBpdesign s.par 2300 2500 20800 s.cfg.fltFirTaps.toNat).map Exact.rnd = coef.map some
      ∧ (List.range [(52 : Rat), 104, -52].length).map (fun n => rndRat (convolution coef [(52 : Rat), 104, -52] n)) = y1.map some
      ∧ ∀ v ∈ numHenv s.par y1, v.rnd.isSome = true :=
  ⟨⟨withTaps 3 (one (realBuf 20800 [1, 2])), by decide +kernel⟩,
    ⟨wideBand 0x45A28000#32 3 (one (realBuf 20800 [maxF, maxF, maxF])), (numBpdesign (wideBand 0x45A28000#32 3 (one (realBuf 20800 [maxF, maxF, maxF]))).par 1 5200 20800 3).map (fun c => c.rnd.getD 0), by decide +kernel⟩,
    ⟨wideBand 0x461C4000#32 1 (one (realBuf 20800 [maxF / 2, maxF, -maxF / 2])),
      (numBpdesign (wideBand 0x461C4000#32 1 (one (realBuf 20800 [maxF / 2, maxF, -maxF / 2]))).par 1 10000 20800 1).map (fun c => c.rnd.getD 0),
      (List.range 3).map (fun n => (rndRat (convolution
        ((numBpdesign (wideBand 0x461C4000#32 1 (one (realBuf 20800 [maxF / 2, maxF, -maxF / 2]))).par 1 10000 20800 1).map (fun c => c.rnd.getD 0))
        [maxF / 2, maxF, -maxF / 2] n)).getD 0), by decide +kernel⟩,
    v59, [(dec 0x3C9D89D9#32).getD 0], [1, 2, -1], by decide +kernel⟩

theorem witness_ChannelTagNeverReachesData :
    exec (.demod 1#4 0#4) v59 = .next (after (.demod 1#4 0#4) v59)
    ∧ exec (.extract 2#4 0#4 1#2) v59 = .next (after (.extract 2#4 0#4 1#2) v59)
    ∧ exec (.extract 2#4 0#4 2#2) v59 = .next (after (.extract 2#4 0#4 2#2) v59) :=
  ⟨exec_after _ _, exec_after _ _, exec_after _ _⟩

/-- V70 and V71. -/
theorem witness_FormimgNormalisesTheTruncatedStream :
    (∃ s : State, (Instr.formimg 7#4 0#4 1#4).slotsExist s.par.nslot = true ∧ slotAt s 0#4 = .valid (realBuf 8320 [(7 : Rat), 8, 7, 7, 9])
      ∧ 2 = s.cfg.decPixelsPerLine.toNat * (1#4).toNat ∧ 0 < 2 ∧ 2 = [(7 : Rat), 8, 7, 7, 9].length / 2 ∧ 1 ≤ 2
      ∧ (7 : Rat) ∈ [(7 : Rat), 8, 7, 7, 9].take (2 * 2) ∧ (∀ v ∈ [(7 : Rat), 8, 7, 7, 9].take (2 * 2), 7 ≤ v)
      ∧ (8 : Rat) ∈ [(7 : Rat), 8, 7, 7, 9].take (2 * 2) ∧ (∀ v ∈ [(7 : Rat), 8, 7, 7, 9].take (2 * 2), v ≤ 8) ∧ (7 : Rat) < 8)
    ∧ (∃ s : State, (Instr.formimg 7#4 0#4 1#4).slotsExist s.par.nslot = true ∧ slotAt s 0#4 = .valid (realBuf 8320 [(7 : Rat), 7, 9])
      ∧ 2 = s.cfg.decPixelsPerLine.toNat * (1#4).toNat ∧ 0 < 2 ∧ 1 = [(7 : Rat), 7, 9].length / 2 ∧ 1 ≤ 1
      ∧ (7 : Rat) ∈ [(7 : Rat), 7, 9].take (1 * 2) ∧ (∀ v ∈ [(7 : Rat), 7, 9].take (1 * 2), 7 ≤ v)
      ∧ (7 : Rat) ∈ [(7 : Rat), 7, 9].take (1 * 2) ∧ (∀ v ∈ [(7 : Rat), 7, 9].take (1 * 2), v ≤ 7) ∧ (7 : Rat) = 7) :=
  ⟨⟨withCfg (fun c => { c with decPixelsPerLine := 2#32 }) (one (realBuf 8320 [(7 : Rat), 8, 7, 7, 9])), by decide +kernel⟩,
    ⟨withCfg (fun c => { c with decPixelsPerLine := 2#32 }) (one (realBuf 8320 [(7 : Rat), 7, 9])), by decide +kernel⟩⟩

theorem witness_FormimgChecksInOrder :
    (∃ s : State, (Instr.formimg 7#4 0#4 1#4).slotsExist s.par.nslot = true
      ∧ slotAt s 0#4 = .valid (realBuf 8320 [1, 2, 3]) ∧ s.cfg.decPixelsPerLine.toNat * (1#4).toNat = 0)
    ∧ (∃ s : State, (Instr.formimg 7#4 0#4 1#4).slotsExist s.par.nslot = true
      ∧ slotAt s 0#4 = .valid (realBuf 8320 [1, 2, 3]) ∧ 0 < s.cfg.decPixelsPerLine.toNat * (1#4).toNat
      ∧ [(1 : Rat), 2, 3].length < s.cfg.decPixelsPerLine.toNat * (1#4).toNat) :=
  ⟨⟨withCfg (fun c => { c with decPixelsPerLine := 0#32 }) (one (realBuf 8320 [1, 2, 3])), by decide +kernel⟩,
    ⟨withCfg (fun c => { c with decPixelsPerLine := 4#32 }) (one (realBuf 8320 [1, 2, 3])), by decide +kernel⟩⟩

theorem witness_NormalisationIsIdempotent :
    (∀ v ∈ [(0 : Rat), 63, 255], ∃ k : Nat, k ≤ 255 ∧ v = k) ∧ (0 : Rat) ∈ [(0 : Rat), 63, 255]
    ∧ (255 : Rat) ∈ [(0 : Rat), 63, 255] ∧ ∃ u ∈ [(1 : Rat), 2], ∃ v ∈ [(1 : Rat), 2], u < v := by
  refine ⟨fun v hv => ?_, by decide +kernel, by decide +kernel, by decide +kernel⟩
  simp only [List.mem_cons, List.not_mem_nil, or_false] at hv
  obtain rfl | rfl | rfl := hv
  · exact ⟨0, by decide, by norm_num⟩
  · exact ⟨63, by decide, by norm_num⟩
  · exact ⟨255, by decide, by norm_num⟩

theorem witness_CombineAveragesTwoImages :
    (Instr.combine 2#4 0#4 1#4).slotsExist State.reset.par.nslot = true
    ∧ slotAt (holding [.valid (imageBuf 1 1 [255#8]), .valid (imageBuf 1 1 [254#8])]) 0#4 = .valid (imageBuf 1 1 [254#8])
    ∧ slotAt (holding [.valid (imageBuf 1 1 [255#8]), .valid (imageBuf 1 1 [254#8])]) 1#4 = .valid (imageBuf 1 1 [255#8])
    ∧ ([254#8] : List Byte).length = ([255#8] : List Byte).length
    ∧ (slotAt (holding [.valid (imageBuf 2 1 [1#8, 2#8]), .valid (imageBuf 1 2 [1#8, 2#8])]) 0#4
        = .valid (imageBuf 1 2 [1#8, 2#8])
      ∧ slotAt (holding [.valid (imageBuf 2 1 [1#8, 2#8]), .valid (imageBuf 1 2 [1#8, 2#8])]) 1#4
        = .valid (imageBuf 2 1 [1#8, 2#8]) ∧ (1 ≠ 2 ∨ 2 ≠ 1)) := by decide +kernel

/-- After reset no slot is OPEN and `OPENSLOT` is 0: a command with destination `b0` falls under the load-port clause, as do
a failing `BOPEN` of `b0` and a `BCLOSE`, which leaves slot 0 alone; and a slot field that names no slot. -/
theorem witness_CommandsLeaveTheRestAlone :
    (exec (.bfree 1#4) v59 = .next (after (.bfree 1#4) v59) ∧ (after (.bfree 1#4) v59).err = .ok)
    ∧ (State.reset.openV = false ∧ State.reset.openSlot = 0#4
      ∧ exec (.demod 0#4 1#4) State.reset = .next (after (.demod 0#4 1#4) State.reset)
      ∧ (Instr.demod 0#4 1#4).slotsExist State.reset.par.nslot = true ∧ (Instr.demod 0#4 1#4).dst = some State.reset.openSlot
      ∧ ¬ ((after (.demod 0#4 1#4) State.reset).err = .ok ∧ ∃ d k, Instr.demod 0#4 1#4 = .bopen d k)
      ∧ ¬ ((after (.demod 0#4 1#4) State.reset).err = .ok ∧ Instr.demod 0#4 1#4 = .bclose))
    ∧ (exec (.bopen 0#4 .real) State.reset = .next (after (.bopen 0#4 .real) State.reset)
      ∧ (Instr.bopen 0#4 .real).slotsExist State.reset.par.nslot = true
      ∧ (after (.bopen 0#4 .real) State.reset).err ≠ .ok)
    ∧ (exec .bclose State.reset = .next (after .bclose State.reset) ∧ Instr.bclose.slotsExist State.reset.par.nslot = true
      ∧ (after .bclose State.reset).err ≠ .ok ∧ Instr.bclose.dst ≠ some 0#4
      ∧ ¬ (Instr.bclose = .bclose ∧ State.reset.openV = true ∧ 0#4 = State.reset.openSlot))
    ∧ (exec (.bfree 0#4) (loading { rate := 1, chan := 0#2, data := .real [] })
        = .next (after (.bfree 0#4) (loading { rate := 1, chan := 0#2, data := .real [] }))
      ∧ (Instr.bfree 0#4).dst = some (loading { rate := 1, chan := 0#2, data := .real [] }).openSlot)
    ∧ (Instr.bfree 8#4).slotsExist State.reset.par.nslot = false :=
  ⟨⟨exec_after _ _, by decide +kernel⟩,
    ⟨rfl, rfl, exec_after _ _, by decide, rfl, (fun h => by obtain ⟨-, d, k, e⟩ := h; cases e), (fun h => by cases h.2)⟩,
    ⟨exec_after _ _, by decide, by decide +kernel⟩, ⟨exec_after _ _, by decide, by decide +kernel, by decide, by decide⟩,
    ⟨exec_after _ _, rfl⟩, by decide⟩

theorem witness_FailuresHaveExactlyTheirEffects :
    (exec (.dcrem 1#4 2#4) v59 = .next (after (.dcrem 1#4 2#4) v59) ∧ (after (.dcrem 1#4 2#4) v59).err ≠ .ok)
    ∧ (exec (.bfree 8#4) v59 = .next (after (.bfree 8#4) v59) ∧ (after (.bfree 8#4) v59).err ≠ .ok) :=
  ⟨⟨exec_after _ _, by decide +kernel⟩, exec_after _ _, by decide +kernel⟩

theorem witness_CommandsReadNoStatus :
    exec (.demod 1#4 2#4) v59 = .next (after (.demod 1#4 2#4) v59) ∧ (after (.demod 1#4 2#4) v59).err ≠ .ok :=
  ⟨exec_after _ _, by decide +kernel⟩

/-- A state with both sticky flags set, to which the host sends an acknowledgement. -/
def acked : State := sent (.regWrite Reg.status.index 0x00000110#32) { State.reset with sticky := true, degen := true }

theorem witness_StickyFlagsBelongToTheHost :
    (step acked = .next { State.reset with sticky := false, degen := false } ∧ acked.sticky = true ∧ acked.degen = true)
    ∧ acked.pending = .regWrite Reg.status.index 0x00000110#32 :: [] := ⟨⟨rfl, rfl, rfl⟩, rfl⟩

/-- A state to which the host sends a `WDATA` write while the port is closed. -/
def closedLoad : State := sent (.regWrite Reg.wdata.index 0x3F800000#32) State.reset

theorem witness_ErrIsWrittenByCommandsAndFailedLoads :
    closedLoad.pending = .regWrite Reg.wdata.index 0x3F800000#32 :: []
    ∧ step closedLoad = .next (takePortFailure .portClosed State.reset)
    ∧ HostInput.regWrite Reg.wdata.index 0x3F800000#32 ≠ .reset
    ∧ (∀ w : Word, HostInput.regWrite Reg.wdata.index 0x3F800000#32 ≠ .regWrite Reg.cmd.index w)
    ∧ (takePortFailure .portClosed State.reset).err ≠ closedLoad.err :=
  ⟨rfl, rfl, by decide, fun w h => absurd (HostInput.regWrite.inj h).1 (by decide), by decide⟩

/-- A load of one element, about to be finished. -/
def invLoad : State := sent (.regWrite Reg.cmd.index 0x02000000#32) (loading { rate := 1, chan := 0#2, data := .real [1] })

theorem witness_StepKeepsTheInvariant : Inv invLoad ∧ ∃ t, step invLoad = .next t :=
  ⟨{ params := by decide +kernel, slots := by decide +kernel, filter := by decide +kernel,
     load := by unfold loadPortOk; decide +kernel, pending := trivial },
    after .bclose (setPendingInputs [] invLoad), exec_after .bclose (setPendingInputs [] invLoad)⟩

theorem witness_InvariantHoldsAtReset :
    Config.reference.ok = true ∧ { Config.reference with nslot := 1, maxlen := 1, maxtaps := 1 }.ok = true
    ∧ { Config.reference with nslot := 16, maxtaps := 65535 }.ok = true := by decide +kernel

theorem witness_ResetGivesTheListedValues : (sent .reset v59).pending = .reset :: [] := rfl

theorem witness_ConfigurationRegistersHoldWhatIsWritten :
    Reg.sdrSampleRate ∈ [Reg.sdrSampleRate, .decCarrierFreq, .decLineRate, .decPixelsPerLine, .decAudioRate, .fltBpLow,
      .fltBpHigh, .fltFirTaps, .fltOrder, .agcTarget] ∧ Reg.agcTarget ≠ Reg.fltCtrl := by decide

theorem witness_ReservedAndReadOnlyOffsetsIgnoreWrites :
    Reg.atIndex 0x0F#6 = none ∧ Reg.atIndex 0x12#6 = none ∧ Reg.atIndex 0x13#6 = none ∧ Reg.atIndex 0x22#6 = none
    ∧ Reg.atIndex 0x3F#6 = none ∧ Reg.atIndex 0x21#6 = some .fsdata ∧ Reg.fltCtrl.access = .ro := by decide

theorem witness_ReadsOnlyAdvanceTheirPointer :
    (Reg.cmd.access = .wo ∧ Reg.wdata.access = .wo ∧ Reg.status ≠ .rdata ∧ Reg.rdata ≠ .fsdata)
    ∧ slotAt State.reset State.reset.rsel = .empty
    ∧ (slotAt (loading { rate := 1, chan := 2#2, data := .complex [(1, 2)] })
          (loading { rate := 1, chan := 2#2, data := .complex [(1, 2)] }).rsel
        = .opened { rate := 1, chan := 2#2, data := .complex [(1, 2)] }
      ∧ (Samples.complex [(1, 2)]).length < 2 ^ 32)
    ∧ slotAt (one (realBuf 1 [])) (one (realBuf 1 [])).rsel = .valid (realBuf 1 [])
    ∧ slotAt (one (imageBuf 1 1 [255#8])) (one (imageBuf 1 1 [255#8])).rsel = .valid (imageBuf 1 1 [255#8])
    ∧ 1 * 1 < 2 ^ 32 := by decide +kernel

theorem witness_StatusBitsAndTheirClearing :
    (0x00000010#32).getLsbD 4 = true ∧ (0x00000010#32).getLsbD 8 = false ∧ (0x00000100#32).getLsbD 8 = true := by decide

/-- A block whose buffers hold two elements. -/
def twoLong (s : State) : State := { s with par := { Config.reference with maxlen := 2 } }

theorem witness_WdataWriteFollowsItsRule :
    State.reset.openV = false
    ∧ (∃ s : State, s.openV = true ∧ slotAt s s.openSlot = .opened { rate := 1, chan := 0#2, data := .real [1] }
      ∧ dec 0x7FC00000#32 = none)
    ∧ (∃ s : State, s.openV = true ∧ slotAt s s.openSlot = .opened { rate := 1, chan := 0#2, data := .real [1, 2] }
      ∧ dec 0x3F800000#32 = some 1 ∧ s.wpend = none ∧ s.par.maxlen ≤ [(1 : Rat), 2].length)
    ∧ (∃ s : State, s.openV = true ∧ slotAt s s.openSlot = .opened { rate := 1, chan := 0#2, data := .real [1] }
      ∧ dec 0x3F800000#32 = some 1 ∧ s.wpend = none ∧ [(1 : Rat)].length < s.par.maxlen)
    ∧ (∃ s : State, s.openV = true ∧ slotAt s s.openSlot = .opened { rate := 1, chan := 0#2, data := .complex [(1, 2), (3, 4)] }
      ∧ dec 0x3F800000#32 = some 1 ∧ s.wpend = none ∧ s.par.maxlen ≤ [((1 : Rat), (2 : Rat)), (3, 4)].length)
    ∧ (∃ s : State, s.openV = true ∧ slotAt s s.openSlot = .opened { rate := 1, chan := 0#2, data := .complex [(1, 2)] }
      ∧ dec 0x3F800000#32 = some 1 ∧ s.wpend = none ∧ [((1 : Rat), (2 : Rat))].length < s.par.maxlen)
    ∧ (∃ s : State, s.openV = true ∧ slotAt s s.openSlot = .opened { rate := 1, chan := 0#2, data := .complex [(1, 2)] }
      ∧ dec 0x3F800000#32 = some 1 ∧ s.wpend = some 3) :=
  ⟨rfl, ⟨twoLong (loading { rate := 1, chan := 0#2, data := .real [1] }), by decide +kernel⟩,
    ⟨twoLong (loading { rate := 1, chan := 0#2, data := .real [1, 2] }), by decide +kernel⟩,
    ⟨twoLong (loading { rate := 1, chan := 0#2, data := .real [1] }), by decide +kernel⟩,
    ⟨twoLong (loading { rate := 1, chan := 0#2, data := .complex [(1, 2), (3, 4)] }), by decide +kernel⟩,
    ⟨twoLong (loading { rate := 1, chan := 0#2, data := .complex [(1, 2)] }), by decide +kernel⟩,
    ⟨setPending (some 3) (twoLong (loading { rate := 1, chan := 0#2, data := .complex [(1, 2)] })), by decide +kernel⟩⟩

theorem witness_WordViewOfASlot :
    State.reset.par.nslot ≤ (8#4).toNat ∧ slotAt State.reset 0#4 = .empty
    ∧ slotAt (loading { rate := 1, chan := 0#2, data := .real [1] }) 0#4 = .opened { rate := 1, chan := 0#2, data := .real [1] }
    ∧ slotAt (one (complexBuf 1 [(1, 2)])) 0#4 = .valid (complexBuf 1 [(1, 2)])
    ∧ slotAt (one (imageBuf 1 1 [255#8])) 0#4 = .valid (imageBuf 1 1 [255#8])
    ∧ [(1 : Rat)][0]? = some 1 ∧ [((1 : Rat), (2 : Rat))][0]? = some (1, 2) ∧ [255#8][0]? = some 255#8 := by decide +kernel

theorem witness_RdataReturnsTheNextWord :
    (slotAt (one (realBuf 1 [5])) (one (realBuf 1 [5])).rsel).words[(0#32).toNat]? = some 0x40A00000#32
    ∧ (slotAt (one (realBuf 1 [])) (one (realBuf 1 [])).rsel).words.length ≤ (0#32).toNat := by decide +kernel

theorem witness_FilterViewsAndFsdata :
    State.reset.fspec.valid = false
    ∧ ((withFilter [1] State.reset).fspec.valid = true ∧ (withFilter [1] State.reset).fspec.taps < 2 ^ 16
      ∧ (withFilter [1] State.reset).fsptr.toNat < (withFilter [1] State.reset).fspec.taps
      ∧ (withFilter [1] State.reset).fspec.coef[(withFilter [1] State.reset).fsptr.toNat]? = some 1)
    ∧ (withFilter [] State.reset).fspec.taps ≤ (withFilter [] State.reset).fsptr.toNat := by decide +kernel

/-- `rnd` at a tie, one unit above 1 away, and at its bound. -/
theorem witness_RndIsRoundToNearestEven :
    (rndRat (1 + 1 / 2 ^ 24) = some 1 ∧ isF (1 + 1 / 2 ^ 23) = true ∧ (1 + 1 / 2 ^ 23 : Rat) ≠ 1
      ∧ |(1 + 1 / 2 ^ 24 : Rat) - (1 + 1 / 2 ^ 23)| = |(1 + 1 / 2 ^ 24 : Rat) - 1|)
    ∧ isF maxF = true ∧ (maxF ≤ maxF ∧ rndRat maxF = some maxF) := by decide +kernel

/-- The root of the square of that tie. -/
theorem witness_RootIsRoundedExactly :
    (0 : Rat) ≤ (1 + 1 / 2 ^ 24) * (1 + 1 / 2 ^ 24)
    ∧ rndRoot ((1 + 1 / 2 ^ 24) * (1 + 1 / 2 ^ 24)) = some 1
    ∧ isF (1 + 1 / 2 ^ 23) = true ∧ (1 + 1 / 2 ^ 23 : Rat) ≠ 1
    ∧ |Real.sqrt (((1 + 1 / 2 ^ 24) * (1 + 1 / 2 ^ 24) : Rat) : ℝ) - ((1 + 1 / 2 ^ 23 : Rat) : ℝ)|
      = |Real.sqrt (((1 + 1 / 2 ^ 24) * (1 + 1 / 2 ^ 24) : Rat) : ℝ) - ((1 : Rat) : ℝ)| := by
  refine ⟨by decide +kernel, by decide +kernel, by decide +kernel, by decide +kernel, ?_⟩
  have h : Real.sqrt (((1 + 1 / 2 ^ 24) * (1 + 1 / 2 ^ 24) : Rat) : ℝ) = 1 + 1 / 2 ^ 24 := by
    push_cast
    exact Real.sqrt_mul_self (by positivity)
  rw [h]
  norm_num [abs_of_pos, abs_of_neg]

theorem witness_WordsEncodeExactlyTheElements :
    isF (pow2 (-149)) = true ∧ isF (-maxF) = true ∧ dec 0x7F7FFFFF#32 = some maxF ∧ dec 0x00000001#32 = some (pow2 (-149)) := by
  decide +kernel

theorem witness_NumPrimitivesKeepTheirContracts : Exact.analytic [1] 0 ∈ numHenv Config.reference [1] := by decide +kernel

theorem witness_BytesAreLittleEndian : (0x3F800000#32).getLsbD (8 * 3 + 5) = true ∧ 3 < 4 ∧ 5 < 8 := by decide

end Sys2Proof.Tests
end

section
/-! PROOFS. The number format (00_scope.md R14, R15): the model's powers, exponents and roots in the library's terms. -/

namespace Sys2Proof.Machine

/-! ### Powers, absolute values, exponents -/

theorem pow2_eq_zpow (e : ℤ) : pow2 e = 2 ^ e := by
  cases e with
  | ofNat n => simp [pow2, Rat.mkRat_eq_div]
  | negSucc n => simp [pow2, Rat.mkRat_eq_div, zpow_negSucc]

theorem rabs_eq_abs (v : Rat) : rabs v = |v| := by
  unfold rabs
  split
  · rw [abs_of_neg ‹_›]
  · rw [abs_of_nonneg (not_lt.mp ‹_›)]

/-- Two powers of two between which a number lies fix its binary logarithm. -/
theorem log_eq_of_zpow_le_of_lt_zpow {v : Rat} {l : ℤ} (hlo : 2 ^ l ≤ v) (hhi : v < 2 ^ (l + 1)) : Int.log 2 v = l := by
  have hv : 0 < v := lt_of_lt_of_le (by positivity) hlo
  have h1 : l ≤ Int.log 2 v := (Int.zpow_le_iff_le_log one_lt_two hv).mp (mod_cast hlo)
  have h2 : Int.log 2 v < l + 1 := (Int.lt_zpow_iff_log_lt one_lt_two hv).mp (mod_cast hhi)
  omega

theorem zpow_log2_le_cast {n : Nat} (hn : n ≠ 0) :
    (2 : Rat) ^ (n.log2 : ℤ) ≤ n ∧ (n : Rat) < 2 ^ ((n.log2 : ℤ) + 1) := by
  constructor
  · rw [zpow_natCast]; exact_mod_cast Nat.log2_self_le hn
  · exact_mod_cast Nat.lt_log2_self

/-- The logarithms of two numbers fix that of their quotient up to one. -/
theorem zpow_le_div_of_zpow_le {x y : Rat} {a b : ℤ} (hx : 2 ^ a ≤ x ∧ x < 2 ^ (a + 1)) (hy : 2 ^ b ≤ y ∧ y < 2 ^ (b + 1)) :
    2 ^ (a - b - 1) ≤ x / y ∧ x / y < 2 ^ (a - b + 1) := by
  have hy0 : 0 < y := lt_of_lt_of_le (by positivity) hy.1
  constructor
  · rw [le_div_iff₀ hy0]
    calc (2 : Rat) ^ (a - b - 1) * y ≤ 2 ^ (a - b - 1) * 2 ^ (b + 1) := by gcongr; exact hy.2.le
      _ = 2 ^ a := by rw [← zpow_add₀ two_ne_zero]; congr 1; ring
      _ ≤ x := hx.1
  · rw [div_lt_iff₀ hy0]
    calc x < 2 ^ (a + 1) := hx.2
      _ = 2 ^ (a - b + 1) * 2 ^ b := by rw [← zpow_add₀ two_ne_zero]; congr 1; ring
      _ ≤ 2 ^ (a - b + 1) * y := by gcongr; exact hy.1

/-- `ilog2` is the library's binary logarithm: numerator and denominator fix it up to one, which a comparison decides. -/
theorem ilog2_eq_log {v : Rat} (hv : 0 < v) : ilog2 v = Int.log 2 v := by
  have hfrac : (v.num.natAbs : Rat) / v.den = v := by
    rw [div_eq_iff (by exact_mod_cast v.den_ne_zero), Rat.mul_den_eq_num, ← Int.cast_natCast,
      Int.natAbs_of_nonneg (Rat.num_nonneg.mpr hv.le)]
  obtain ⟨lower, upper⟩ := zpow_le_div_of_zpow_le (zpow_log2_le_cast (n := v.num.natAbs) (by simpa using hv.ne'))
    (zpow_log2_le_cast v.den_ne_zero)
  rw [hfrac] at lower upper
  unfold ilog2
  rw [pow2_eq_zpow]
  split
  · rename_i h; exact (log_eq_of_zpow_le_of_lt_zpow h upper).symm
  · rename_i h; exact (log_eq_of_zpow_le_of_lt_zpow lower (by simpa using h)).symm

theorem overflowBound_eq : overflowBound = (2 - 1 / 2 ^ 24) * 2 ^ 127 := by
  rw [overflowBound, pow2_eq_zpow, pow2_eq_zpow]; norm_num

/-- The binary logarithm of a rational, as a statement about the real it is. -/
theorem zpow_log_le_cast {v : Rat} (hv : 0 < v) :
    (2 : ℝ) ^ Int.log 2 v ≤ v ∧ (v : ℝ) < 2 ^ (Int.log 2 v + 1) := by
  have h1 := (Rat.cast_le (K := ℝ)).mpr (Int.zpow_log_le_self (b := 2) one_lt_two hv)
  have h2 := (Rat.cast_lt (K := ℝ)).mpr (Int.lt_zpow_succ_log_self (b := 2) one_lt_two v)
  push_cast at h1 h2
  exact ⟨h1, h2⟩

theorem zpow_add_ofNat (e : ℤ) (n : ℕ) [n.AtLeastTwo] : (2 : ℝ) ^ (e + OfNat.ofNat n) = 2 ^ (OfNat.ofNat n : ℕ) * 2 ^ e := by
  rw [zpow_add₀ two_ne_zero, zpow_ofNat, mul_comm]

/-! ### The exponent of the unit in the last place -/

/-- `e` is the exponent of the unit in the last place at `x`: 24 bits of precision, none below `2^-149` (R14). -/
structure IsUlpExp (x : ℝ) (e : ℤ) : Prop where
  min : -149 ≤ e
  low : e = -149 ∨ (2 : ℝ) ^ (e + 23) ≤ |x|
  high : |x| < 2 ^ (e + 24)

/-- No magnitude has two exponents. -/
theorem IsUlpExp.le_of_abs_le {x y : ℝ} {e e' : ℤ} (hx : IsUlpExp x e) (hy : IsUlpExp y e') (h : |x| ≤ |y|) : e ≤ e' := by
  rcases hx.low with rfl | hlow
  · exact hy.min
  · have : (2 : ℝ) ^ (e + 23) < 2 ^ (e' + 24) := lt_of_le_of_lt (hlow.trans h) hy.high
    have := (zpow_lt_zpow_iff_right₀ (one_lt_two (α := ℝ))).mp this
    omega

theorem isUlpExp_max_log {x : ℝ} {l : ℤ} (hlo : 2 ^ l ≤ |x|) (hhi : |x| < 2 ^ (l + 1)) :
    IsUlpExp x (max (-149) (l - 23)) := by
  refine ⟨le_max_left _ _, ?_, ?_⟩
  · rcases le_total (l - 23) (-149) with h | h
    · exact .inl (max_eq_left h)
    · right; rw [max_eq_right h]; simpa using hlo
  · exact hhi.trans_le (zpow_le_zpow_right₀ one_le_two (by omega))

theorem isUlpExp_zero : IsUlpExp 0 (-149) := ⟨le_rfl, .inl rfl, by rw [abs_zero]; positivity⟩

theorem ulpExp_isUlpExp (v : Rat) : IsUlpExp v (ulpExp v) := by
  unfold ulpExp
  split
  · rename_i h; subst h; simpa using isUlpExp_zero
  · rename_i h
    have hv : 0 < |v| := abs_pos.mpr h
    rw [rabs_eq_abs, ilog2_eq_log hv]
    obtain ⟨hlo, hhi⟩ := zpow_log_le_cast hv
    push_cast at hlo hhi
    exact isUlpExp_max_log hlo hhi

theorem rootUlpExp_isUlpExp {q : Rat} (hq : 0 ≤ q) : IsUlpExp (Real.sqrt q) (rootUlpExp q) := by
  unfold rootUlpExp
  split
  · rename_i h
    have : q = 0 := le_antisymm h hq
    subst this
    simpa using isUlpExp_zero
  · rename_i h
    have hq : 0 < q := not_le.mp h
    obtain ⟨hlo, hhi⟩ := zpow_log_le_cast hq
    rw [ilog2_eq_log hq]
    apply isUlpExp_max_log
    · rw [abs_of_nonneg (Real.sqrt_nonneg _)]
      apply Real.le_sqrt_of_sq_le
      rw [← zpow_natCast, ← zpow_mul]
      exact (zpow_le_zpow_right₀ one_le_two (by push_cast; omega)).trans hlo
    · rw [abs_of_nonneg (Real.sqrt_nonneg _), Real.sqrt_lt' (by positivity), ← zpow_natCast, ← zpow_mul]
      exact hhi.trans_le (zpow_le_zpow_right₀ one_le_two (by push_cast; omega))

/-! ### Integer square roots -/

/-- Each bit of `isqrtFrom` halves the gap between the root found and the one not reached. -/
theorem isqrtFrom_eq_sqrt (n k r : Nat) (hlo : r * r ≤ n) (hhi : n < (r + 2 ^ k) * (r + 2 ^ k)) :
    isqrtFrom n k r = Nat.sqrt n := by
  induction k generalizing r with
  | zero => exact Nat.eq_sqrt.mpr ⟨hlo, hhi⟩
  | succ k ih =>
    unfold isqrtFrom
    split
    · rename_i h
      exact ih _ h (by rwa [add_assoc, ← two_mul, ← pow_succ'])
    · rename_i h
      exact ih _ hlo (not_le.mp h)

theorem isqrt_eq_sqrt (n : Nat) : isqrt n = Nat.sqrt n := by
  refine isqrtFrom_eq_sqrt n _ 0 (Nat.zero_le n) ?_
  calc n < 2 ^ (n.log2 + 1) := Nat.lt_log2_self
    _ ≤ 2 ^ ((n.log2 / 2 + 1) + (n.log2 / 2 + 1)) := Nat.pow_le_pow_right two_pos (by omega)
    _ = (0 + 2 ^ (n.log2 / 2 + 1)) * (0 + 2 ^ (n.log2 / 2 + 1)) := by rw [pow_add, zero_add]

/-! ### Rounding to the nearest integer -/

/-- `k` is `y` rounded to the nearest integer, ties to the even one (R11 `rhe`). -/
structure IsRhe (y : ℝ) (k : ℤ) : Prop where
  near : |y - k| ≤ 1 / 2
  tie : |y - k| = 1 / 2 → k % 2 = 0

theorem IsRhe.neg {y : ℝ} {k : ℤ} (h : IsRhe y k) : IsRhe (-y) (-k) := by
  have e : |-y - ((-k : ℤ) : ℝ)| = |y - k| := by rw [← abs_neg]; congr 1; push_cast; ring
  exact ⟨e ▸ h.near, fun ht => by have := h.tie (e ▸ ht); omega⟩

/-- No integer is nearer, and one as near leaves an even choice. -/
theorem IsRhe.le_abs_sub {y : ℝ} {k : ℤ} (h : IsRhe y k) (n : ℤ) :
    |y - k| ≤ |y - n| ∧ (n ≠ k → |y - n| = |y - k| → k % 2 = 0) := by
  have far : n ≠ k → 1 ≤ |y - k| + |y - n| := fun hne => by
    have h1 : (1 : ℝ) ≤ |((n - k : ℤ) : ℝ)| := by
      rw [← Int.cast_abs]; exact_mod_cast Int.one_le_abs (sub_ne_zero.mpr hne)
    calc (1 : ℝ) ≤ |(y - k) - (y - n)| := by push_cast at h1; rwa [sub_sub_sub_cancel_left]
      _ ≤ |y - k| + |y - n| := abs_sub _ _
  refine ⟨?_, fun hne he => h.tie ?_⟩
  · by_cases hne : n = k
    · rw [hne]
    · linarith [far hne, h.near]
  · linarith [far hne, h.near]

theorem IsRhe.unique {y : ℝ} {k l : ℤ} (hk : IsRhe y k) (hl : IsRhe y l) : k = l := by
  by_contra hne
  have e : |y - k| = |y - l| := le_antisymm (hk.le_abs_sub l).1 (hl.le_abs_sub k).1
  have h1 := (hk.le_abs_sub l).2 (Ne.symm hne) e.symm
  have h2 := (hl.le_abs_sub k).2 hne e
  have h3 : |((k - l : ℤ) : ℝ)| ≤ 1 := by
    calc |((k - l : ℤ) : ℝ)| = |(y - l) - (y - k)| := by push_cast; congr 1; ring
      _ ≤ |y - l| + |y - k| := abs_sub _ _
      _ ≤ 1 := by linarith [hk.near, hl.near]
  rw [← Int.cast_abs] at h3
  have h4 : |k - l| ≤ 1 := by exact_mod_cast h3
  rw [abs_le] at h4
  omega

/-- The choice between the two integers about `y`, as `rhe` and `rheRoot` make it. -/
theorem isRhe_of_midpoint {y : ℝ} {m : ℤ} (hlo : m ≤ y) (hhi : y ≤ m + 1) :
    (y ≤ m + 1 / 2 → (y = m + 1 / 2 → m % 2 = 0) → IsRhe y m)
    ∧ (m + 1 / 2 ≤ y → (y = m + 1 / 2 → m % 2 ≠ 0) → IsRhe y (m + 1)) := by
  constructor
  · intro h ht
    have e : |y - m| = y - m := abs_of_nonneg (by linarith)
    exact ⟨by linarith, fun h' => ht (by linarith)⟩
  · intro h ht
    have e : |y - ((m + 1 : ℤ) : ℝ)| = m + 1 - y := by push_cast; rw [abs_of_nonpos (by linarith)]; ring
    exact ⟨by linarith, fun h' => by have := ht (by linarith); omega⟩

theorem rhe_isRhe (v : Rat) : IsRhe v (rhe v) := by
  have hlo : (v.floor : ℝ) ≤ v := by exact_mod_cast Rat.floor_le v
  have hhi : (v : ℝ) ≤ v.floor + 1 := by exact_mod_cast (Int.lt_floor_add_one v).le
  obtain ⟨down, up⟩ := isRhe_of_midpoint hlo hhi
  have hd : ((v - v.floor : Rat) : ℝ) = v - v.floor := by push_cast; rfl
  have hm : ((mkRat 1 2 : Rat) : ℝ) = 1 / 2 := by norm_num [Rat.mkRat_eq_div]
  unfold rhe
  simp only [← (Rat.cast_lt (K := ℝ)), hd, hm]
  split
  · rename_i h; exact down (by linarith) (by intro; linarith)
  · split
    · rename_i h; exact up (by linarith) (by intro; linarith)
    · split
      · rename_i he; exact down (by linarith) fun _ => he
      · rename_i he; exact up (by linarith) fun _ => he

theorem rhe_neg (v : Rat) : rhe (-v) = -rhe v :=
  (rhe_isRhe (-v)).unique (by simpa using (rhe_isRhe v).neg)

/-- The integer root is the floor of the real one. -/
theorem natSqrt_floor_le_sqrt {t : Rat} (ht : 0 ≤ t) :
    (Nat.sqrt t.floor.toNat : ℝ) ≤ Real.sqrt t ∧ Real.sqrt t ≤ Nat.sqrt t.floor.toNat + 1 := by
  have hfl : (t.floor.toNat : ℤ) = ⌊t⌋ := Int.toNat_of_nonneg (Int.floor_nonneg.mpr ht)
  generalize t.floor.toNat = n at *
  have hlo : ((Nat.sqrt n * Nat.sqrt n : Nat) : ℤ) ≤ ⌊t⌋ := hfl ▸ Int.ofNat_le.mpr (Nat.sqrt_le n)
  have hhi : ⌊t⌋ < (((Nat.sqrt n + 1) * (Nat.sqrt n + 1) : Nat) : ℤ) := hfl ▸ Int.ofNat_lt.mpr (Nat.lt_succ_sqrt n)
  have hlo : (Nat.sqrt n : ℝ) * Nat.sqrt n ≤ t := by exact_mod_cast Int.le_floor.mp hlo
  have hhi : (t : ℝ) < (Nat.sqrt n + 1) * (Nat.sqrt n + 1) := by exact_mod_cast Int.floor_lt.mp hhi
  exact ⟨Real.le_sqrt_of_sq_le (by linarith [pow_two (Nat.sqrt n : ℝ)]),
    Real.sqrt_le_iff.mpr ⟨by positivity, by linarith [pow_two (Nat.sqrt n + 1 : ℝ)]⟩⟩

/-- `rheRoot` compares the root with a midpoint by comparing squares. -/
theorem sqrt_le_midpoint_iff (s : Nat) (t : ℝ) : Real.sqrt t ≤ s + 1 / 2 ↔ 4 * t ≤ (2 * s + 1) * (2 * s + 1) := by
  rw [Real.sqrt_le_left (by positivity)]
  constructor <;> intro h <;> linarith

theorem midpoint_le_sqrt_iff (s : Nat) {t : ℝ} (ht : 0 ≤ t) :
    s + 1 / 2 ≤ Real.sqrt t ↔ (2 * s + 1) * (2 * s + 1) ≤ 4 * t := by
  rw [Real.le_sqrt (by positivity) ht]
  constructor <;> intro h <;> linarith

/-- `rheRoot` rounds the real root. -/
theorem rheRoot_isRhe {t : Rat} (ht : 0 ≤ t) : IsRhe (Real.sqrt t) (rheRoot t : ℤ) := by
  obtain ⟨hlo, hhi⟩ := natSqrt_floor_le_sqrt ht
  unfold rheRoot
  rw [isqrt_eq_sqrt]
  generalize Nat.sqrt t.floor.toNat = s at *
  have hle := sqrt_le_midpoint_iff s t
  have hge := midpoint_le_sqrt_iff s (t := t) (by exact_mod_cast ht)
  obtain ⟨down, up⟩ := isRhe_of_midpoint (m := s) (by exact_mod_cast hlo) (by exact_mod_cast hhi)
  push_cast at down up
  dsimp only
  split
  · rename_i h
    have h : 4 * (t : ℝ) < (2 * s + 1) * (2 * s + 1) := by exact_mod_cast h
    exact down (hle.mpr h.le) fun e => absurd (hge.mp e.ge) h.not_ge
  · rename_i h₁
    have h₁ : ((2 * s + 1) * (2 * s + 1) : ℝ) ≤ 4 * t := by exact_mod_cast not_lt.mp h₁
    split
    · rename_i h
      have h : ((2 * s + 1) * (2 * s + 1) : ℝ) < 4 * t := by exact_mod_cast h
      exact up (hge.mpr h₁) fun e => absurd (hle.mp e.le) h.not_ge
    · rename_i h₂
      have h₂ : 4 * (t : ℝ) ≤ (2 * s + 1) * (2 * s + 1) := by exact_mod_cast not_lt.mp h₂
      split
      · rename_i he; exact down (hle.mpr h₂) fun _ => by exact_mod_cast he
      · rename_i he; exact up (hge.mpr h₁) fun _ => by exact_mod_cast he

end Sys2Proof.Machine
end
section
/-! PROOFS. Rounding to `F` (00_scope.md R14, R15): the elements of `F`, and what `rndRat` and `rndRoot` answer. -/

namespace Sys2Proof.Machine

/-! ### The elements of `F` -/

/-- Membership in `F`: a multiple of the unit in its own last place, below `2^128`. -/
theorem isF_iff (v : Rat) : isF v = true ↔ (∃ k : ℤ, v = k * 2 ^ ulpExp v) ∧ |v| < 2 ^ (128 : ℤ) := by
  have hpos : (0 : Rat) < 2 ^ ulpExp v := by positivity
  simp only [isF, Bool.and_eq_true, decide_eq_true_eq, rabs_eq_abs, pow2_eq_zpow]
  refine and_congr_left fun _ => ⟨fun h => ⟨_, h⟩, ?_⟩
  rintro ⟨k, hk⟩
  have hdiv : v / 2 ^ ulpExp v = k := (div_eq_iff hpos.ne').mpr hk
  rw [hdiv, Rat.floor_intCast]
  exact hk

theorem isF_zero : isF 0 = true := (isF_iff 0).mpr ⟨⟨0, by simp⟩, by simp⟩

/-- The unit in the last place of `k · 2^e` with `|k| ≤ 2^24` is `2^e` or less, but for the two ends. -/
theorem ulpExp_mul_zpow_le {k e : ℤ} (he : -149 ≤ e) (hk : |k| ≤ 2 ^ 24) :
    ulpExp (k * 2 ^ e) ≤ e ∨ |k| = 2 ^ 24 ∧ ulpExp (k * 2 ^ e) = e + 1 := by
  have hu := ulpExp_isUlpExp (k * 2 ^ e)
  have habs : |(((k * 2 ^ e : Rat)) : ℝ)| = |(k : ℝ)| * 2 ^ e := by
    push_cast
    rw [abs_mul, abs_of_pos (show (0 : ℝ) < 2 ^ e by positivity)]
  rcases eq_or_lt_of_le hk with heq | hlt
  · have hkr : |(k : ℝ)| = 2 ^ 24 := by exact_mod_cast heq
    have hx : IsUlpExp ((k * 2 ^ e : Rat) : ℝ) (e + 1) := by
      refine ⟨by omega, .inr ?_, ?_⟩
      · rw [habs, hkr, show e + 1 + 23 = e + 24 by ring, zpow_add_ofNat]
      · rw [habs, hkr, show e + 1 + 24 = e + 25 by ring, zpow_add_ofNat]
        exact mul_lt_mul_of_pos_right (by norm_num) (by positivity)
    exact .inr ⟨heq, le_antisymm (hu.le_of_abs_le hx le_rfl) (hx.le_of_abs_le hu le_rfl)⟩
  · left
    have hkr : |(k : ℝ)| < 2 ^ 24 := by exact_mod_cast hlt
    rcases hu.low with h | h
    · omega
    · rw [habs] at h
      have : (2 : ℝ) ^ (ulpExp (k * 2 ^ e) + 23) < 2 ^ (e + 24) := by
        rw [zpow_add_ofNat e]
        exact h.trans_lt (mul_lt_mul_of_pos_right hkr (by positivity))
      have := (zpow_lt_zpow_iff_right₀ (one_lt_two (α := ℝ))).mp this
      omega

/-- A power of two of a smaller exponent divides. -/
theorem mul_zpow_of_le {e e' : ℤ} (h : e' ≤ e) (k : ℤ) :
    (k : Rat) * 2 ^ e = ((k * 2 ^ (e - e').toNat : ℤ) : Rat) * 2 ^ e' := by
  push_cast
  rw [mul_assoc, ← zpow_natCast, ← zpow_add₀ two_ne_zero, Int.toNat_of_nonneg (by omega), sub_add_cancel]

/-- Every significand of at most 24 bits is a multiple of the unit in the last place of the value, one with a further
factor of two if it is even. -/
theorem exists_mul_ulp {k e : ℤ} (he : -149 ≤ e) (hk : |k| ≤ 2 ^ 24) :
    ∃ n : ℤ, (k * 2 ^ e : Rat) = n * 2 ^ ulpExp (k * 2 ^ e) ∧ (k % 2 = 0 → n % 2 = 0) := by
  rcases ulpExp_mul_zpow_le he hk with h | ⟨hk24, h⟩
  · refine ⟨_, mul_zpow_of_le h k, fun hev => ?_⟩
    rw [Int.mul_emod, hev, zero_mul, Int.zero_emod]
  · have hk2 : k = 2 * (k / 2) ∧ k / 2 % 2 = 0 := by
      rcases (abs_eq (by norm_num)).mp hk24 with rfl | rfl <;> decide
    refine ⟨k / 2, ?_, fun _ => hk2.2⟩
    rw [h, zpow_add_one₀ two_ne_zero]
    conv_lhs => rw [hk2.1]
    push_cast; ring

/-- Every significand of at most 24 bits at an exponent of the format gives an element of `F`. -/
theorem isF_mul_zpow {k e : ℤ} (he : -149 ≤ e) (hk : |k| ≤ 2 ^ 24) (hlt : |(k * 2 ^ e : Rat)| < 2 ^ (128 : ℤ)) :
    isF (k * 2 ^ e) = true :=
  have ⟨n, hn, _⟩ := exists_mul_ulp he hk
  (isF_iff _).mpr ⟨⟨n, hn⟩, hlt⟩

theorem floor_mul_div_pow2 (n u : ℤ) : ((n * 2 ^ u : Rat) / pow2 u).floor = n := by
  rw [pow2_eq_zpow, mul_div_cancel_right₀ _ (by positivity), Rat.floor_intCast]

/-- The significand of an element of `F` has 24 bits, exactly 24 but for the subnormal ones. -/
theorem exists_significand {v : Rat} (hv : isF v = true) :
    ∃ k : ℤ, v = k * 2 ^ ulpExp v ∧ |k| < 2 ^ 24 ∧ (ulpExp v = -149 ∨ 2 ^ 23 ≤ |k|) ∧ ulpExp v ≤ 104 := by
  obtain ⟨⟨k, hk⟩, hlt⟩ := (isF_iff v).mp hv
  have hu := ulpExp_isUlpExp v
  generalize ulpExp v = u at *
  have hpos : (0 : ℝ) < 2 ^ u := by positivity
  have habs : |(v : ℝ)| = |(k : ℝ)| * 2 ^ u := by
    rw [hk]; push_cast; rw [abs_mul, abs_of_pos hpos]
  refine ⟨k, hk, ?_, hu.low.imp id fun h => ?_, ?_⟩
  · have h := hu.high
    rw [habs, zpow_add_ofNat, mul_lt_mul_iff_left₀ hpos] at h
    exact_mod_cast h
  · rw [habs, zpow_add_ofNat, mul_le_mul_iff_left₀ hpos] at h
    exact_mod_cast h
  · rcases hu.low with h | h
    · omega
    · have hltR : |(v : ℝ)| < 2 ^ (128 : ℤ) := by exact_mod_cast hlt
      have := (zpow_lt_zpow_iff_right₀ (one_lt_two (α := ℝ))).mp (h.trans_lt hltR)
      omega

/-- The elements of `F` lie below the bound of R15: the largest is half a unit under it. -/
theorem abs_lt_overflowBound {v : Rat} (hv : isF v = true) : |v| < overflowBound := by
  obtain ⟨k, hk, hk24, -, hu⟩ := exists_significand hv
  have hk24 : |(k : Rat)| ≤ 2 ^ 24 - 1 := by exact_mod_cast Int.le_sub_one_of_lt hk24
  calc |v| = |(k : Rat)| * 2 ^ ulpExp v := by
        conv_lhs => rw [hk]
        rw [abs_mul, abs_of_pos (by positivity : (0 : Rat) < 2 ^ ulpExp v)]
    _ ≤ (2 ^ 24 - 1) * 2 ^ (104 : ℤ) :=
        mul_le_mul hk24 (zpow_le_zpow_right₀ one_le_two hu) (by positivity) (by norm_num)
    _ < overflowBound := by rw [overflowBound_eq]; norm_num

/-! ### What rounding gives -/

/-- `r` is `x` rounded to nearest in `F`, ties to the even significand (R15). -/
def RoundsTo (x : ℝ) (r : Rat) : Prop :=
  isF r = true ∧ ∀ f : Rat, isF f = true →
    |x - r| ≤ |x - f| ∧ (f ≠ r → |x - f| = |x - r| → (r / pow2 (ulpExp r)).floor % 2 = 0)

/-- A rounded significand does not leave 24 bits by more than a carry, and does not leave `F`. -/
theorem isF_of_isRhe {x : ℝ} {e k : ℤ} (hx : IsUlpExp x e) (hov : |x| < overflowBound) (hk : IsRhe (x / 2 ^ e) k) :
    |k| ≤ 2 ^ 24 ∧ isF (k * 2 ^ e) = true := by
  have hpos : (0 : ℝ) < 2 ^ e := by positivity
  have hkx : |(k : ℝ)| ≤ |x| / 2 ^ e + 1 / 2 := by
    have := abs_sub_abs_le_abs_sub (k : ℝ) (x / 2 ^ e)
    rw [abs_sub_comm, abs_div, abs_of_pos hpos] at this
    linarith [hk.near]
  have he : e ≤ 104 := by
    rcases hx.low with h | h
    · omega
    · have hb : (overflowBound : ℝ) < 2 ^ (128 : ℤ) := by rw [overflowBound_eq]; norm_num
      have := (zpow_lt_zpow_iff_right₀ (one_lt_two (α := ℝ))).mp ((h.trans_lt hov).trans hb)
      omega
  have hk24 : |k| ≤ 2 ^ 24 := by
    have hy : |x| / 2 ^ e < 2 ^ 24 := by
      rw [div_lt_iff₀ hpos, ← zpow_add_ofNat]; exact hx.high
    have : ((|k| : ℤ) : ℝ) < ((2 ^ 24 + 1 : ℤ) : ℝ) := by push_cast; linarith
    have := Int.cast_lt.mp this
    omega
  refine ⟨hk24, isF_mul_zpow hx.min hk24 ?_⟩
  have hlt : |(k : ℝ)| * 2 ^ e < 2 ^ (128 : ℤ) :=
    calc |(k : ℝ)| * 2 ^ e ≤ (|x| / 2 ^ e + 1 / 2) * 2 ^ e := mul_le_mul_of_nonneg_right hkx hpos.le
      _ = |x| + 2 ^ e / 2 := by field_simp
      _ ≤ |x| + 2 ^ (104 : ℤ) / 2 := by gcongr; norm_num
      _ < overflowBound + 2 ^ (104 : ℤ) / 2 := by gcongr
      _ = 2 ^ (128 : ℤ) := by rw [overflowBound_eq]; norm_num
  rw [abs_mul, abs_of_pos (by positivity : (0 : Rat) < 2 ^ e)]
  rw [← Rat.cast_lt (K := ℝ)]
  simpa using hlt

theorem abs_sub_mul_zpow (x : ℝ) (n e : ℤ) : |x - n * 2 ^ e| = |x / 2 ^ e - n| * 2 ^ e := by
  have hpos : (0 : ℝ) < 2 ^ e := by positivity
  nth_rewrite 3 [← abs_of_pos hpos]
  rw [← abs_mul, sub_mul, div_mul_cancel₀ _ hpos.ne']

/-- No multiple of the unit is nearer than the rounded one, and one as near leaves an even choice. -/
theorem IsRhe.abs_sub_mul_zpow_le {x : ℝ} {e k : ℤ} (hk : IsRhe (x / 2 ^ e) k) (n : ℤ) :
    |x - k * 2 ^ e| ≤ |x - n * 2 ^ e| ∧ (n ≠ k → |x - n * 2 ^ e| = |x - k * 2 ^ e| → k % 2 = 0) := by
  have hpos : (0 : ℝ) < 2 ^ e := by positivity
  obtain ⟨hle, htie⟩ := hk.le_abs_sub n
  rw [abs_sub_mul_zpow, abs_sub_mul_zpow]
  exact ⟨mul_le_mul_of_nonneg_right hle hpos.le, fun hne heq => htie hne (mul_right_cancel₀ hpos.ne' heq)⟩

/-- A value below the power of two at or below `x` is farther from `x` than the rounded one: that power of two is a
multiple of the unit. -/
theorem IsRhe.abs_sub_lt {x y : ℝ} {e k : ℤ} (hk : IsRhe (x / 2 ^ e) k) (hlow : 2 ^ 23 * 2 ^ e ≤ |x|)
    (hy : |y| < 2 ^ 23 * 2 ^ e) : |x - k * 2 ^ e| < |x - y| := by
  have hpow : |x - k * 2 ^ e| ≤ |x| - 2 ^ 23 * 2 ^ e := by
    rcases abs_cases x with ⟨h, -⟩ | ⟨h, -⟩
    · refine (hk.abs_sub_mul_zpow_le (2 ^ 23)).1.trans (abs_le.mpr ⟨?_, ?_⟩) <;> push_cast <;> linarith
    · refine (hk.abs_sub_mul_zpow_le (-2 ^ 23)).1.trans (abs_le.mpr ⟨?_, ?_⟩) <;> push_cast <;> linarith
  linarith [abs_sub_abs_le_abs_sub x y]

/-- Rounding the significand at the unit of the last place rounds the value: an element of `F` with that unit or a larger
one is a multiple of the unit, and any other is below the power of two at or below `x`. -/
theorem roundsTo_of_isRhe {x : ℝ} {e k : ℤ} (hx : IsUlpExp x e) (hov : |x| < overflowBound) (hk : IsRhe (x / 2 ^ e) k) :
    RoundsTo x (k * 2 ^ e) := by
  obtain ⟨hk24, hF⟩ := isF_of_isRhe hx hov hk
  refine ⟨hF, fun f hf => ?_⟩
  have cast_mul (n : ℤ) : ((n * 2 ^ e : Rat) : ℝ) = n * 2 ^ e := by push_cast; rfl
  rw [cast_mul]
  rcases le_or_gt e (ulpExp f) with he | he
  · obtain ⟨m, hm, -⟩ := exists_significand hf
    rw [mul_zpow_of_le he] at hm
    generalize m * 2 ^ (ulpExp f - e).toNat = n at hm
    obtain ⟨hle, htie⟩ := hk.abs_sub_mul_zpow_le n
    rw [hm, cast_mul]
    refine ⟨hle, fun hne heq => ?_⟩
    have hkev := htie (by rintro rfl; exact hne rfl) heq
    obtain ⟨r, hr, hrev⟩ := exists_mul_ulp hx.min hk24
    generalize ulpExp (k * 2 ^ e) = u at hr
    rw [hr, floor_mul_div_pow2]
    exact hrev hkev
  · have hlow := hx.low.resolve_left (by have := (ulpExp_isUlpExp f).min; omega)
    have hfe : |(f : ℝ)| < 2 ^ (e + 23) :=
      (ulpExp_isUlpExp f).high.trans_le (zpow_le_zpow_right₀ one_le_two (by omega))
    rw [zpow_add_ofNat] at hlow hfe
    have hfar := hk.abs_sub_lt hlow hfe
    exact ⟨hfar.le, fun _ heq => absurd heq hfar.ne'⟩

/-! ### `rndRat` -/

theorem rndRat_eq_none_iff (v : Rat) : rndRat v = none ↔ overflowBound ≤ |v| := by
  simp [rndRat, rabs_eq_abs]

theorem rndRat_eq_some_iff (v r : Rat) :
    rndRat v = some r ↔ |v| < overflowBound ∧ r = rhe (v / 2 ^ ulpExp v) * 2 ^ ulpExp v := by
  rw [rndRat, rabs_eq_abs, pow2_eq_zpow]
  split
  · rename_i h; simp [h.not_gt]
  · rename_i h; simp [not_le.mp h, eq_comm]

theorem rndRat_roundsTo {v r : Rat} (h : rndRat v = some r) : RoundsTo v r := by
  obtain ⟨hov, rfl⟩ := (rndRat_eq_some_iff v r).mp h
  have hk := rhe_isRhe (v / 2 ^ ulpExp v)
  push_cast at hk
  exact roundsTo_of_isRhe (ulpExp_isUlpExp v) (by exact_mod_cast hov) hk

theorem rndRat_of_isF {v : Rat} (hv : isF v = true) : rndRat v = some v := by
  cases h : rndRat v with
  | none => exact absurd ((rndRat_eq_none_iff v).mp h) (abs_lt_overflowBound hv).not_ge
  | some r =>
    have := ((rndRat_roundsTo h).2 v hv).1
    rw [sub_self, abs_zero, abs_nonpos_iff, sub_eq_zero] at this
    rw [Rat.cast_inj.mp this]

/-- A nearest element that fell behind that of a smaller value would make the two values one midpoint. -/
theorem rndRat_mono {u v p q : Rat} (huv : u ≤ v) (hp : rndRat u = some p) (hq : rndRat v = some q) : p ≤ q := by
  by_contra! hlt
  obtain ⟨hpF, hpn⟩ := rndRat_roundsTo hp
  obtain ⟨hqF, hqn⟩ := rndRat_roundsTo hq
  have h1 : |u - p| ≤ |u - q| := by exact_mod_cast (hpn q hqF).1
  have h2 : |v - q| ≤ |v - p| := by exact_mod_cast (hqn p hpF).1
  rw [← sq_le_sq] at h1 h2
  have hu : (p + q) / 2 ≤ u := by nlinarith
  have hv : v ≤ (p + q) / 2 := by nlinarith
  obtain rfl : u = v := le_antisymm huv (hv.trans hu)
  rw [hp, Option.some.injEq] at hq
  exact hlt.ne hq.symm

theorem ulpExp_neg (v : Rat) : ulpExp (-v) = ulpExp v := by
  simp [ulpExp, rabs_eq_abs]

theorem rndRat_neg (v : Rat) : rndRat (-v) = (rndRat v).map (fun r => -r) := by
  simp only [rndRat, rabs_eq_abs, abs_neg, ulpExp_neg, neg_div, rhe_neg]
  split
  · rfl
  · simp

theorem rndRat_nonneg {v r : Rat} (hv : 0 ≤ v) (h : rndRat v = some r) : 0 ≤ r :=
  rndRat_mono hv (rndRat_of_isF isF_zero) h

/-! ### `rndRoot` -/

theorem overflowBound_nonneg : 0 ≤ overflowBound := by decide +kernel

theorem rndRoot_eq_none_iff {q : Rat} (hq : 0 ≤ q) : rndRoot q = none ↔ (overflowBound : ℝ) ≤ Real.sqrt q := by
  have hb : (0 : ℝ) ≤ overflowBound := by exact_mod_cast overflowBound_nonneg
  rw [Real.le_sqrt hb (by exact_mod_cast hq), pow_two]
  simp only [rndRoot, ite_eq_left_iff, reduceCtorEq, imp_false, not_not]
  exact_mod_cast Iff.rfl

theorem rndRoot_eq_some {q r : Rat} (h : rndRoot q = some r) :
    q < overflowBound * overflowBound ∧ r = rheRoot (q / 2 ^ (2 * rootUlpExp q)) * 2 ^ rootUlpExp q := by
  rw [rndRoot, pow2_eq_zpow, pow2_eq_zpow] at h
  split at h
  · cases h
  · rename_i hlt
    exact ⟨not_le.mp hlt, (Option.some.inj h).symm⟩

theorem rndRoot_nonneg {q r : Rat} (h : rndRoot q = some r) : 0 ≤ r := by
  obtain ⟨-, rfl⟩ := rndRoot_eq_some h
  positivity

theorem rndRoot_roundsTo {q r : Rat} (hq : 0 ≤ q) (h : rndRoot q = some r) : RoundsTo (Real.sqrt q) r := by
  have hov : Real.sqrt q < overflowBound := by
    rw [← not_le, ← rndRoot_eq_none_iff hq, h]; simp
  obtain ⟨-, rfl⟩ := rndRoot_eq_some h
  have hk := rheRoot_isRhe (t := q / 2 ^ (2 * rootUlpExp q)) (by positivity)
  have hscale : Real.sqrt ((q / 2 ^ (2 * rootUlpExp q) : Rat) : ℝ) = Real.sqrt q / 2 ^ rootUlpExp q := by
    push_cast
    rw [Real.sqrt_div (by exact_mod_cast hq), mul_comm, zpow_mul, zpow_ofNat, Real.sqrt_sq (by positivity)]
  rw [hscale] at hk
  exact_mod_cast roundsTo_of_isRhe (rootUlpExp_isUlpExp hq) (by rwa [abs_of_nonneg (Real.sqrt_nonneg _)]) hk

theorem rheRoot_of_nonpos {t : Rat} (ht : t ≤ 0) : rheRoot t = 0 := by
  have hfl : t.floor.toNat = 0 := Int.toNat_eq_zero.mpr (Int.floor_nonpos ht)
  have hlt : 4 * t < ((2 * 0 + 1) * (2 * 0 + 1) : Nat) := by norm_num; linarith
  rw [rheRoot, hfl, show isqrt 0 = 0 from rfl]
  exact if_pos hlt

/-- A negative radicand, which no command forms, counts as 0. -/
theorem rndRoot_of_neg {q : Rat} (hq : q < 0) : rndRoot q = some 0 := by
  have hov : ¬ overflowBound * overflowBound ≤ q := not_le.mpr (hq.trans_le (mul_self_nonneg _))
  have ht : q / pow2 (2 * rootUlpExp q) ≤ 0 := div_nonpos_of_nonpos_of_nonneg hq.le (by rw [pow2_eq_zpow]; positivity)
  rw [rndRoot, if_neg hov, rheRoot_of_nonpos ht, Nat.cast_zero, zero_mul]

/-- Whatever a rational's root is rounded to is in `F`. -/
theorem isF_of_rndRoot {q r : Rat} (h : rndRoot q = some r) : isF r = true := by
  rcases le_or_gt 0 q with hq | hq
  · exact (rndRoot_roundsTo hq h).1
  · rw [rndRoot_of_neg hq, Option.some.injEq] at h
    exact h ▸ isF_zero

end Sys2Proof.Machine
end
section
/-! PROOFS. The statements about rounding, the median and the words (00_scope.md R15, R16, R23, R25). -/

namespace Sys2Proof.Machine

/-! ### Rounding (R15, R25) -/

/-- Settles O56: `rhe` rounds the significand at the unit of the last place, which rounds the value; monotony, identity
and oddness follow. -/
theorem rndIsRoundToNearestEven : Obligations.RndIsRoundToNearestEven := by
  refine ⟨fun v => ?_, fun v r h => ?_, fun v hv => rndRat_of_isF hv, fun u v p q huv hp hq => rndRat_mono huv hp hq,
    rndRat_neg⟩
  · rw [rndRat_eq_none_iff, overflowBound_eq]
  · obtain ⟨hF, hnear⟩ := rndRat_roundsTo h
    exact ⟨hF, fun f hf => by exact_mod_cast hnear f hf⟩

/-- Settles O57: `rheRoot` rounds the real root at the unit of the last place, as `rhe` does a rational. -/
theorem rootIsRoundedExactly : Obligations.RootIsRoundedExactly := by
  intro q hq
  refine ⟨?_, fun r h => ?_⟩
  · rw [rndRoot_eq_none_iff hq, overflowBound_eq]; push_cast; rfl
  · obtain ⟨hF, hnear⟩ := rndRoot_roundsTo hq h
    exact ⟨hF, rndRoot_nonneg h, hnear⟩

/-! ### The median (R23) -/

theorem insertAsc_eq_orderedInsert (v : Rat) (l : List Rat) : insertAsc v l = l.orderedInsert (· ≤ ·) v := by
  induction l with
  | nil => rfl
  | cons u us ih => rw [insertAsc, List.orderedInsert_cons, ih]

theorem sortAsc_eq_insertionSort (l : List Rat) : sortAsc l = l.insertionSort (· ≤ ·) := by
  induction l with
  | nil => rfl
  | cons v vs ih => rw [sortAsc, insertAsc_eq_orderedInsert, ih, List.insertionSort_cons]

/-- There is one ascending arrangement. -/
theorem sortAsc_eq_of_perm {w l : List Rat} (hperm : l.Perm w) (hasc : l.Pairwise (· ≤ ·)) : sortAsc w = l := by
  rw [sortAsc_eq_insertionSort]
  exact ((List.perm_insertionSort _ w).trans hperm.symm).eq_of_pairwise (fun _ _ _ _ => le_antisymm)
    (List.pairwise_insertionSort _ w) hasc

/-- Settles O30: `median` reads the ascending arrangement, which is unique, at its middle. -/
theorem medianIsTheMiddleElement : Obligations.MedianIsTheMiddleElement := by
  intro w l hodd hperm hasc
  have hlen := hperm.length_eq
  have hmid : w.length / 2 < l.length := by omega
  rw [median, sortAsc_eq_of_perm hperm hasc, show (w.length + 1) / 2 - 1 = w.length / 2 by omega,
    List.getElem?_eq_getElem hmid, List.getD_eq_getElem _ _ hmid]

/-! ### Words (R16) -/

theorem mkRat_two_pow (n : Int) (k : Nat) : mkRat n (2 ^ k) = n * (2 : Rat) ^ (-(k : Int)) := by
  rw [Rat.mkRat_eq_div, zpow_neg, zpow_natCast, ← div_eq_mul_inv]; push_cast; rfl

/-- The layout of a finite word, as the library's numbers. -/
theorem dec_eq (w : Word) : dec w =
    if w.extractLsb' 23 8 = 255#8 then none
    else some ((if w.getLsbD 31 = true then -1 else 1)
      * (if w.extractLsb' 23 8 = 0#8 then ((w.extractLsb' 0 23).toNat : Rat) * (2 : Rat) ^ (-149 : Int)
         else ((2 ^ 23 + (w.extractLsb' 0 23).toNat : Nat) : Rat)
          * (2 : Rat) ^ (((w.extractLsb' 23 8).toNat : Int) - 150))) := by
  have h255 : w.extractLsb' 23 8 = 255#8 ↔ (w.extractLsb' 23 8).toNat = 255 := by rw [← BitVec.toNat_inj]; rfl
  have h0 : w.extractLsb' 23 8 = 0#8 ↔ (w.extractLsb' 23 8).toNat = 0 := by rw [← BitVec.toNat_inj]; rfl
  have hsign : (((if w.getLsbD 31 then -1 else 1 : Int)) : Rat) = if w.getLsbD 31 = true then -1 else 1 := by
    split <;> norm_num
  simp only [dec, h255, h0]
  rw [← hsign]
  generalize (if w.getLsbD 31 then -1 else 1 : Int) = sign
  generalize (w.extractLsb' 23 8).toNat = e
  generalize (w.extractLsb' 0 23).toNat = f
  split
  · rfl
  · split
    · rw [mkRat_two_pow]; push_cast; rw [mul_assoc]
    · split
      · rw [mkRat_two_pow, Int.natCast_sub (by omega)]; push_cast; rw [mul_assoc, neg_sub]
      · have he : (e : Int) - 150 = (e - 150 : Nat) := by omega
        rw [Rat.mkRat_one, he, zpow_natCast]; push_cast; rfl

/-- A decoded value is a significand of at most 24 bits at an exponent of the format. -/
theorem exists_of_dec {w : Word} {v : Rat} (h : dec w = some v) :
    ∃ k e : ℤ, v = k * 2 ^ e ∧ |k| < 2 ^ 24 ∧ -149 ≤ e ∧ e ≤ 104 := by
  have hsign : ∃ σ : ℤ, |σ| = 1 ∧ (if w.getLsbD 31 = true then -1 else 1 : Rat) = σ := by
    split
    · exact ⟨-1, by norm_num, by norm_num⟩
    · exact ⟨1, by norm_num, by norm_num⟩
  obtain ⟨σ, hσ, hs⟩ := hsign
  have habs (m : Nat) : |σ * m| = m := by rw [abs_mul, hσ, one_mul, Nat.abs_cast]
  have he := (w.extractLsb' 23 8).isLt
  have hf := (w.extractLsb' 0 23).isLt
  rw [dec_eq, hs] at h
  simp only [← BitVec.toNat_inj, BitVec.toNat_ofNat, Nat.reducePow, Nat.reduceMod] at h
  generalize (w.extractLsb' 23 8).toNat = e at *
  generalize (w.extractLsb' 0 23).toNat = f at *
  split at h
  · cases h
  · have hv := Option.some.inj h
    split at hv
    · refine ⟨σ * f, -149, by rw [← hv, ← mul_assoc]; norm_cast, ?_, le_rfl, by norm_num⟩
      rw [habs]; omega
    · refine ⟨σ * (2 ^ 23 + f : Nat), e - 150, by rw [← hv, ← mul_assoc]; norm_cast, ?_, by omega, by omega⟩
      rw [habs]; omega

theorem isF_of_dec {w : Word} {v : Rat} (h : dec w = some v) : isF v = true := by
  obtain ⟨k, e, rfl, hk, he, he'⟩ := exists_of_dec h
  refine isF_mul_zpow he hk.le ?_
  rw [abs_mul, abs_of_pos (by positivity : (0 : Rat) < 2 ^ e)]
  have hk : |(k : Rat)| < 2 ^ 24 := by exact_mod_cast hk
  calc |(k : Rat)| * 2 ^ e < 2 ^ 24 * 2 ^ e := mul_lt_mul_of_pos_right hk (by positivity)
    _ ≤ 2 ^ 24 * 2 ^ (104 : ℤ) := by gcongr; norm_num
    _ = 2 ^ (128 : ℤ) := by norm_num

theorem signBit_append (b : Bool) (e : BitVec 8) (f : BitVec 23) : (BitVec.ofBool b ++ e ++ f).getLsbD 31 = b := by
  rw [BitVec.getLsbD_append, BitVec.getLsbD_append]; simp

theorem exponent_append (b : Bool) (e : BitVec 8) (f : BitVec 23) : (BitVec.ofBool b ++ e ++ f).extractLsb' 23 8 = e := by
  rw [BitVec.extractLsb'_append_eq_of_le le_rfl, BitVec.extractLsb'_append_eq_right]

/-- A word of joined fields is read field by field. -/
theorem dec_append (b : Bool) (e : BitVec 8) (f : BitVec 23) : dec (BitVec.ofBool b ++ e ++ f) =
    if e = 255#8 then none
    else some ((if b = true then -1 else 1)
      * (if e = 0#8 then (f.toNat : Rat) * (2 : Rat) ^ (-149 : Int)
         else ((2 ^ 23 + f.toNat : Nat) : Rat) * (2 : Rat) ^ ((e.toNat : Int) - 150))) := by
  have hs : (BitVec.ofBool b ++ e ++ f : Word).getLsbD 31 = b := signBit_append b e f
  have he : (BitVec.ofBool b ++ e ++ f : Word).extractLsb' 23 8 = e := exponent_append b e f
  have hf : (BitVec.ofBool b ++ e ++ f : Word).extractLsb' 0 23 = f := BitVec.extractLsb'_append_eq_right
  rw [dec_eq, hs, he, hf]

/-- The fields `enc` joins, for a value whose significand is known. -/
theorem enc_eq {v : Rat} {k : ℤ} (hk : v = k * 2 ^ ulpExp v) : enc v =
    if k.natAbs < 2 ^ 23 then BitVec.ofBool (decide (v < 0)) ++ 0#8 ++ BitVec.ofNat 23 k.natAbs
    else BitVec.ofBool (decide (v < 0)) ++ BitVec.ofNat 8 (ulpExp v + 150).toNat ++ BitVec.ofNat 23 k.natAbs := by
  have hm : (rabs v / pow2 (ulpExp v)).floor.toNat = k.natAbs := by
    have : rabs v = ((k.natAbs : ℤ) : Rat) * 2 ^ ulpExp v := by
      conv_lhs => rw [rabs_eq_abs, hk, abs_mul, abs_of_pos (by positivity : (0 : Rat) < 2 ^ ulpExp v)]
      rw [Int.natCast_natAbs, Int.cast_abs]
    rw [this, floor_mul_div_pow2, Int.toNat_natCast]
  simp only [enc, hm]

/-- The sign bit `enc` writes, and the magnitude. -/
theorem sign_mul_natAbs {k u : ℤ} {v : Rat} (hk : v = k * 2 ^ u) :
    (if decide (v < 0) = true then -1 else 1 : Rat) * (k.natAbs * 2 ^ u) = v := by
  have hpos : (0 : Rat) < 2 ^ u := by positivity
  have hneg : v < 0 ↔ k < 0 := by rw [hk, ← Int.cast_lt_zero (R := Rat), mul_neg_iff]; simp [hpos, hpos.not_gt]
  rw [← mul_assoc, hk]
  congr 1
  rw [← hk]
  by_cases h : k < 0
  · simp [hneg, h, Nat.cast_natAbs, abs_of_neg h]
  · simp [hneg, h, Nat.cast_natAbs, abs_of_nonneg (not_lt.mp h)]

theorem dec_enc {v : Rat} (hv : isF v = true) : dec (enc v) = some v := by
  obtain ⟨k, hk, hk24, hnorm, hu⟩ := exists_significand hv
  have hmin := (ulpExp_isUlpExp v).min
  have hsign := sign_mul_natAbs hk
  rw [← Int.natCast_natAbs] at hk24 hnorm
  rw [enc_eq hk]
  split
  · rename_i hsub
    have hu : ulpExp v = -149 := hnorm.resolve_right (by omega)
    rw [dec_append, if_neg (by decide), if_pos rfl, BitVec.toNat_ofNat, Nat.mod_eq_of_lt hsub, ← hu, hsign]
  · rename_i hnormal
    have he : (BitVec.ofNat 8 (ulpExp v + 150).toNat).toNat = (ulpExp v + 150).toNat := by
      rw [BitVec.toNat_ofNat]; omega
    have hf : 2 ^ 23 + (BitVec.ofNat 23 k.natAbs).toNat = k.natAbs := by
      rw [BitVec.toNat_ofNat]; omega
    rw [dec_append, if_neg (c := _ = 255#8), if_neg (c := _ = 0#8), hf, he, Int.toNat_of_nonneg (by omega),
      add_sub_cancel_right, hsign]
    · rw [← BitVec.toNat_inj, he]; simp; omega
    · rw [← BitVec.toNat_inj, he]; simp; omega

/-- Settles O58: `enc` joins the fields `dec` reads, and the significand of an element of `F` fills them. -/
theorem wordsEncodeExactlyTheElements : Obligations.WordsEncodeExactlyTheElements :=
  ⟨dec_eq, fun _ => dec_enc, fun _ _ => isF_of_dec, by decide +kernel, by decide +kernel, by decide +kernel,
    by decide +kernel, by decide +kernel⟩

end Sys2Proof.Machine
end
section
/-! PROOFS. The record `NUM` and the rounded lists (00_scope.md R17, R30). -/

namespace Sys2Proof.Machine

/-! ### What a rounded exact real is -/

/-- Whatever is stored is in `F` (R17). -/
theorem isF_of_rnd {v : Exact} {r : Rat} (h : v.rnd = some r) : isF r = true := by
  obtain ⟨u, hu | hu⟩ := v.rnd_eq
  · exact (rndRat_roundsTo (hu ▸ h)).1
  · exact isF_of_rndRoot (hu ▸ h)

theorem isF_of_rndAll {vs : List Exact} {rs : List Rat} (h : rndAll vs = some rs) : ∀ r ∈ rs, isF r = true := by
  intro r hr
  have hmem : some r ∈ vs.map Exact.rnd := (rndAll_eq_some_iff vs rs).mp h ▸ List.mem_map_of_mem hr
  obtain ⟨v, -, hv⟩ := List.mem_map.mp hmem
  exact isF_of_rnd hv

/-- Rounding keeps the order of a list, so its symmetry. -/
theorem rndAll_reverse {vs : List Exact} {rs : List Rat} (h : rndAll vs = some rs) (hv : vs.reverse = vs) :
    rs.reverse = rs := by
  have hm := (rndAll_eq_some_iff vs rs).mp h
  refine List.map_injective_iff.mpr (Option.some_injective _) ?_
  rw [List.map_reverse, ← hm, ← List.map_reverse, hv]

/-- The boundary beside a value that is not negative rounds to no negative one. -/
theorem rndRat_boundary_nonneg {a b : Option Rat} {r : Rat} (ha : ∀ u, a = some u → 0 ≤ u) (hb : ∀ u, b = some u → 0 ≤ u)
    (h : rndRat (boundary a b) = some r) : 0 ≤ r := by
  cases a with
  | none =>
    cases b with
    | none => exact rndRat_nonneg le_rfl h
    | some v =>
      have hover : rndRat (-overflowBound) = none := by rw [rndRat_eq_none_iff, abs_neg]; exact le_abs_self _
      cases hover.symm.trans h
  | some u =>
    have hu := ha u rfl
    cases b with
    | none => exact rndRat_nonneg overflowBound_nonneg h
    | some v => exact rndRat_nonneg (div_nonneg (add_nonneg hu (hb v rfl)) zero_le_two) h

/-- A rounding that gives nothing negative gives nothing negative through any enclosure. -/
theorem settle_nonneg {enclose : Nat → Option (Rat × Rat)} {round : Rat → Option Rat} {isAt : Rat → Bool}
    (hround : ∀ v u, round v = some u → 0 ≤ u) {fuel p : Nat} {r : Rat} (h : settle enclose round isAt fuel p = some r) :
    0 ≤ r := by
  induction fuel generalizing p with
  | zero =>
    unfold settle at h
    split at h <;> exact hround _ _ h
  | succ fuel ih =>
    unfold settle at h
    split at h
    · exact ih h
    · rename_i lo hi _
      split at h
      · exact hround _ _ h
      · split at h
        · exact rndRat_boundary_nonneg (hround lo) (hround hi) h
        · exact ih h

/-! ### The contracts of `NUM` (R30) -/

@[simp] theorem numHenv_length (p : Config.Params) (x : List Rat) : (numHenv p x).length = x.length := by
  unfold numHenv henvRef
  split <;> simp

theorem numHenv_nonneg {p : Config.Params} {x : List Rat} {v : Exact} (hv : v ∈ numHenv p x) {r : Rat}
    (h : v.rnd = some r) : 0 ≤ r := by
  unfold numHenv henvRef at hv
  split at hv
  · obtain ⟨n, -, rfl⟩ := List.mem_map.mp hv
    exact settle_nonneg (fun _ _ => rndRoot_nonneg) h
  · obtain ⟨n, -, rfl⟩ := List.mem_map.mp hv
    exact rndRat_nonneg (by rw [rabs_eq_abs]; positivity) h

@[simp] theorem numBpdesign_length (p : Config.Params) (low high fs : Rat) (taps : Nat) :
    (numBpdesign p low high fs taps).length = taps := by
  unfold numBpdesign
  split <;> exact mirrored_length _ _

theorem numBpdesign_reverse (p : Config.Params) (low high fs : Rat) (taps : Nat) :
    (numBpdesign p low high fs taps).reverse = numBpdesign p low high fs taps := by
  unfold numBpdesign
  split <;> exact mirrored_reverse _ _

theorem numAntialias_u (p : Config.Params) (q : Nat) : ∃ half f, (numAntialias p q).u = mirrored (2 * half + 1) f := by
  unfold numAntialias
  split
  · exact ⟨p.aaZc * q, antialiasRaw p.aaZc q, by rw [← mul_assoc]⟩
  · exact ⟨Config.antialiasHalf p.kaiserBeta p.aaZc q, fun k => .ofRat (Config.antialiasValue p.kaiserBeta p.aaZc q k), rfl⟩

@[simp] theorem numResample_length (p : Config.Params) (x : List Rat) (fs pr : Rat) (mout : Nat) :
    (numResample p x fs pr mout).length = mout := by
  unfold numResample
  split <;> simp

/-- Settles O59: each member of `NUM` is a list of the stated length, mirrored where the table says symmetric, and an
envelope is the root of something or a magnitude. -/
theorem numPrimitivesKeepTheirContracts : Obligations.NumPrimitivesKeepTheirContracts := by
  intro p
  refine ⟨fun x => ⟨numHenv_length p x, fun v hv r => numHenv_nonneg hv⟩,
    fun low high fs taps => ⟨numBpdesign_length .., numBpdesign_reverse ..⟩, fun q => ?_, numResample_length p⟩
  obtain ⟨half, f, hu⟩ := numAntialias_u p q
  rw [hu]
  exact ⟨by rw [mirrored_length]; omega, mirrored_reverse _ _⟩

end Sys2Proof.Machine
end
section
/-! PROOFS. The invariant under the shared operations (00_scope.md R7, R14, R17; 10_state.md R52, R53, R56, R71). -/

namespace Sys2Proof.Machine

/-! ### What the parts of the invariant say -/

theorem Samples.inF_real_iff (xs : List Rat) : (Samples.real xs).inF = true ↔ ∀ x ∈ xs, isF x = true := by
  simp [Samples.inF]

theorem Samples.inF_complex_iff (zs : List (Rat × Rat)) :
    (Samples.complex zs).inF = true ↔ ∀ z ∈ zs, isF z.1 = true ∧ isF z.2 = true := by
  simp [Samples.inF]

theorem Signal.ok_iff (p : Config.Params) (b : Signal) :
    b.ok p = true ↔ isF b.rate = true ∧ 0 < b.rate ∧ b.data.length ≤ p.maxlen ∧ b.data.inF = true := by
  simp [Signal.ok, and_assoc]

theorem Image.ok_iff (p : Config.Params) (im : Image) :
    im.ok p = true ↔ 1 ≤ im.rows ∧ 1 ≤ im.width ∧ im.pix.length = im.rows * im.width
      ∧ im.rows * im.width ≤ p.maxlen := by
  simp [Image.ok, and_assoc]

theorem pendingOk_iff (s : State) : pendingOk s ↔ ∀ v, s.wpend = some v →
    isF v = true ∧ ∃ b zs, openBuffer s = some b ∧ b.data = .complex zs ∧ zs.length < s.par.maxlen := by
  unfold pendingOk
  cases s.wpend <;> simp

theorem pendingOk_of_none {s : State} (h : s.wpend = none) : pendingOk s := (pendingOk_iff s).mpr (by simp [h])

/-- A slot that holds something exists. -/
theorem lt_nslot_of_slotAt_ne {s : State} {i : SlotIx} (h : slotAt s i ≠ .empty) : i.toNat < s.par.nslot := by
  by_contra hge
  exact h (slotAt_of_ge (not_lt.mp hge))

/-- A slot after a write holds what was written or what it held. -/
theorem slotAt_setSlot_or (d i : SlotIx) (v : Slot) (s : State) :
    slotAt (setSlot d v s) i = v ∨ slotAt (setSlot d v s) i = slotAt s i := by
  by_cases hdi : d = i
  · subst hdi
    by_cases hlt : d.toNat < s.par.nslot
    · exact .inl (slotAt_setSlot_self v hlt)
    · exact .inr ((slotAt_of_ge (s := setSlot d v s) (not_lt.mp hlt)).trans (slotAt_of_ge (not_lt.mp hlt)).symm)
  · exact .inr (slotAt_setSlot_ne v s hdi)

section Invariant
variable {s t : State}

theorem Inv.signal_ok (h : Inv s) {a : SlotIx} {b : Signal} (hs : slotAt s a = .valid (.signal b)) :
    b.ok s.par = true := by simpa [hs, Slot.ok] using h.slots a

theorem Inv.image_ok (h : Inv s) {a : SlotIx} {im : Image} (hs : slotAt s a = .valid (.image im)) :
    im.ok s.par = true := by simpa [hs, Slot.ok] using h.slots a

theorem Inv.open_ok (h : Inv s) {b : Signal} (hb : openBuffer s = some b) : b.ok s.par = true := by
  obtain ⟨-, hs⟩ := (openBuffer_eq_some_iff s b).mp hb
  simpa [hs, Slot.ok] using h.slots s.openSlot

/-- The fields the invariant speaks of. -/
theorem Inv.congr (h : Inv s) (hslots : t.slots = s.slots := by rfl) (hpar : t.par = s.par := by rfl)
    (hfspec : t.fspec = s.fspec := by rfl) (hopenV : t.openV = s.openV := by rfl)
    (hopenSlot : t.openSlot = s.openSlot := by rfl) (hwpend : t.wpend = s.wpend := by rfl) : Inv t := by
  have hat := slotAt_congr hslots hpar
  have hbuf : openBuffer t = openBuffer s := by simp [openBuffer, hat, hopenV, hopenSlot]
  obtain ⟨hp, hs, hf, hl, hw⟩ := h
  refine ⟨hpar ▸ hp, fun i => ?_, ?_, ⟨fun i => ?_, ?_⟩, ?_⟩
  · rw [hat, hpar]; exact hs i
  · rw [hfspec, hpar]; exact hf
  · rw [hat, hopenV, hopenSlot]; exact hl.1 i
  · rw [hopenV, hopenSlot]; exact hl.2
  · rw [pendingOk_iff] at hw ⊢
    rwa [hwpend, hbuf, hpar]

/-! ### Slots and the load port -/

theorem loadPortOk_writeSlot (h : loadPortOk s) (d : SlotIx) {v : Slot} (hclosed : v.isOpen = false) :
    loadPortOk (writeSlot d v s) := by
  have hself : (slotAt (writeSlot d v s) d).isOpen = false := by
    by_cases hd : d.toNat < s.par.nslot
    · rw [slotAt_writeSlot_self v hd]; exact hclosed
    · rw [slotAt_of_ge (by simpa using hd)]; rfl
  obtain ⟨-, hO, hV', hO', -⟩ | ⟨hne, hV', hO', -⟩ := writeSlot_load d v s
  · refine ⟨fun i => ?_, fun _ => hO'⟩
    rw [hV', Bool.false_and]
    by_cases hdi : d = i
    · exact hdi ▸ hself
    · rw [slotAt_writeSlot_ne v s hdi, h.1 i, hO]; simp [hdi]
  · refine ⟨fun i => ?_, by rw [hV', hO']; exact h.2⟩
    rw [hV', hO']
    by_cases hdi : d = i
    · subst hdi
      rw [hself]
      simpa using fun hV hO => hne ⟨hV, hO⟩
    · rw [slotAt_writeSlot_ne v s hdi]; exact h.1 i

theorem pendingOk_writeSlot (h : pendingOk s) (d : SlotIx) (v : Slot) : pendingOk (writeSlot d v s) := by
  obtain ⟨-, -, -, -, hw⟩ | ⟨hne, hV', hO', hw⟩ := writeSlot_load d v s
  · exact pendingOk_of_none hw
  · rw [pendingOk_iff, hw, writeSlot_par]
    intro u hu
    obtain ⟨huF, b, zs, hb, hrest⟩ := (pendingOk_iff s).mp h u hu
    refine ⟨huF, b, zs, ?_, hrest⟩
    obtain ⟨hV, hat⟩ := (openBuffer_eq_some_iff s b).mp hb
    rw [openBuffer_eq_some_iff, hV', hO', slotAt_writeSlot_ne v s fun hd => hne ⟨hV, hd.symm⟩]
    exact ⟨hV, hat⟩

/-- Writing a slot that is not OPEN afterwards releases the load it held, and touches no other. -/
theorem Inv.writeSlot (h : Inv s) (d : SlotIx) {v : Slot} (hv : v.ok s.par = true) (hclosed : v.isOpen = false) :
    Inv (writeSlot d v s) := by
  refine ⟨by simpa using h.params, fun i => ?_, by simpa using h.filter, loadPortOk_writeSlot h.load d hclosed,
    pendingOk_writeSlot h.pending d v⟩
  rw [writeSlot_par, slotAt_congr (t := Machine.writeSlot d v s) (s := setSlot d v s) (by simp) (by simp)]
  rcases slotAt_setSlot_or d i v s with hi | hi <;> rw [hi]
  · exact hv
  · exact h.slots i

/-- Emptying or completing the OPEN slot is a command's write to it. -/
theorem releaseLoad_setSlot_openSlot (hV : s.openV = true) (v : Slot) :
    releaseLoad (setSlot s.openSlot v s) = writeSlot s.openSlot v s := by
  simp [writeSlot, hV]

theorem Inv.abortLoad (h : Inv s) (hV : s.openV = true) : Inv (abortLoad s) := by
  rw [Machine.abortLoad, releaseLoad_setSlot_openSlot hV]
  exact h.writeSlot _ rfl rfl

/-- A state in which slot `d`, and no other, is OPEN, with no word waiting. -/
theorem Inv.loading (h : Inv s) {d : SlotIx} {b : Signal} (hd : d.toNat < s.par.nslot) (hb : b.ok s.par = true)
    (hothers : ∀ i, d ≠ i → (slotAt s i).isOpen = false) (hslots : t.slots = s.slots.set d.toNat (.opened b))
    (hpar : t.par = s.par) (hfspec : t.fspec = s.fspec) (hV : t.openV = true) (hO : t.openSlot = d)
    (hw : t.wpend = none) : Inv t := by
  have hat (i : SlotIx) : slotAt t i = slotAt (setSlot d (.opened b) s) i :=
    slotAt_congr (s := setSlot d (.opened b) s) hslots hpar i
  refine ⟨hpar ▸ h.params, fun i => ?_, by rw [hfspec, hpar]; exact h.filter, ⟨fun i => ?_, by simp [hV]⟩,
    pendingOk_of_none hw⟩
  · rw [hat, hpar]
    rcases slotAt_setSlot_or d i (.opened b) s with hi | hi <;> rw [hi]
    · exact hb
    · exact h.slots i
  · rw [hat, hV, hO, Bool.true_and]
    by_cases hdi : d = i
    · subst hdi
      rw [slotAt_setSlot_self _ hd, BEq.rfl]; rfl
    · rw [slotAt_setSlot_ne _ s hdi, hothers i hdi]; simp [hdi]

/-- The buffer being loaded grows. -/
theorem Inv.storeLoad (h : Inv s) {b b' : Signal} (hb : openBuffer s = some b) (hb' : b'.ok s.par = true) :
    Inv (storeLoad b' none s) := by
  obtain ⟨hV, hat⟩ := (openBuffer_eq_some_iff s b).mp hb
  refine h.loading (d := s.openSlot) (lt_nslot_of_slotAt_ne (by simp [hat])) hb' (fun i hi => ?_) rfl rfl rfl hV rfl rfl
  rw [h.load.1 i]; simp [hi]

/-! ### The filter -/

theorem Inv.setFilter (h : Inv s) {f : FilterSpec} (hf : f.ok s.par = true) : Inv (setFilter f s) :=
  have h' : Inv { s with fspec := f } := by
    obtain ⟨hp, hs, -, hl, hw⟩ := h
    exact ⟨hp, hs, hf, hl, hw⟩
  h'

theorem Inv.dropFilter (h : Inv s) : Inv (dropFilter s) := h.setFilter rfl

/-! ### Reports -/

theorem Inv.recordSuccess (h : Inv s) : Inv (recordSuccess s) := h.congr

theorem Inv.recordFailure (h : Inv s) (opc : BitVec 8) (g : Stage) (r : Reason) : Inv (recordFailure opc g r s) := h.congr

theorem Inv.takeFailure (h : Inv s) (i : Instr) (f : Failure) : Inv (takeFailure i f s) := by
  refine Inv.recordFailure ?_ _ _ _
  obtain ⟨-, hi⟩ | ⟨d, -, hi⟩ := invalidate_cases i s <;> rw [hi] <;> split
  · exact h.dropFilter
  · exact h
  · exact (h.writeSlot d rfl rfl).dropFilter
  · exact h.writeSlot d rfl rfl

/-- A command keeps the invariant if its rule does. -/
theorem Inv.runCommand (h : Inv s) {i : Instr} {body : Except Failure State}
    (hbody : i.slotsExist s.par.nslot = true → ∀ u, body = .ok u → Inv u) (hr : runCommand i s body = .next t) : Inv t := by
  obtain ⟨-, rfl⟩ | ⟨-, f, -, rfl⟩ | ⟨hs, u, hu, rfl⟩ := runCommand_cases hr
  · exact h.recordFailure _ _ _
  · exact h.takeFailure i f
  · exact (hbody hs u hu).recordSuccess

/-! ### Reset -/

/-- The reset state has the invariant, whatever the parameters. -/
theorem inv_resetWith {p : Config.Params} (hp : p.ok = true) : Inv (State.resetWith p) := by
  have hempty (i : SlotIx) : slotAt (State.resetWith p) i = .empty := by
    have hget : (State.resetWith p).slots[i.toNat] = .empty := Vector.getElem_replicate _
    unfold slotAt
    split
    · exact hget
    · rfl
  refine ⟨hp, fun i => ?_, rfl, ⟨fun i => ?_, fun _ => rfl⟩, pendingOk_of_none rfl⟩
  · rw [hempty]; rfl
  · rw [hempty]; rfl

end Invariant

end Sys2Proof.Machine
end
section
/-! PROOFS. Every step keeps the invariant: the results of the commands, the ports, and the step. -/

namespace Sys2Proof.Machine

/-! ### When a rule gives a state -/

theorem except_bind_eq_ok_iff {ε α β : Type} (x : Except ε α) (f : α → Except ε β) (b : β) :
    (x >>= f) = .ok b ↔ ∃ a, x = .ok a ∧ f a = .ok b := by
  cases x <;> simp

theorem except_pure_eq_ok_iff {ε α : Type} (a b : α) : (pure a : Except ε α) = .ok b ↔ a = b := by
  simp [pure, Except.pure]

theorem failIf_eq_ok_iff (bad : Bool) (g : Stage) (r : Reason) (u : Unit) : failIf bad g r = .ok u ↔ bad = false := by
  cases bad <;> simp [failAt]

theorem orOverflow_eq_ok_iff {α : Type} (g : Stage) (o : Option α) (v : α) : orOverflow g o = .ok v ↔ o = some v := by
  cases o <;> simp [failAt]

theorem asImage_eq_ok_iff (b : Buffer) (im : Image) : asImage b = .ok im ↔ b = .image im := by
  cases b <;> simp [asImage, failAt]

theorem srcImages_eq_ok_iff (s : State) (a b : SlotIx) (p q : Image) : srcImages s a b = .ok (p, q) ↔
    slotAt s a = .valid (.image p) ∧ slotAt s b = .valid (.image q) := by
  simp only [srcImages, except_bind_eq_ok_iff, srcBuffer_eq_ok_iff, asImage_eq_ok_iff, except_pure_eq_ok_iff,
    Prod.mk.injEq]
  constructor
  · rintro ⟨x, hx, y, hy, p', rfl, q', rfl, rfl, rfl⟩; exact ⟨hx, hy⟩
  · rintro ⟨hx, hy⟩; exact ⟨_, hx, _, hy, p, rfl, q, rfl, rfl, rfl⟩

/-! ### Results in `F` -/

theorem isF_of_rndRats {vs rs : List Rat} (h : rndRats vs = some rs) : ∀ r ∈ rs, isF r = true := isF_of_rndAll h

/-- What holds of the result for each part holds of the whole. -/
theorem mapParts_inF {f : List Rat → Option (List Rat)} {x y : Samples} {N : Nat} (h : mapParts f x = some y)
    (hf : ∀ xs ys, xs.length = x.length → f xs = some ys → ys.length ≤ N ∧ ∀ r ∈ ys, isF r = true) :
    y.length ≤ N ∧ y.inF = true := by
  obtain ⟨xs, ys, rfl, h1, rfl⟩ | ⟨zs, re, im, rfl, hre, him, rfl⟩ := mapParts_cases h
  · obtain ⟨hlen, hF⟩ := hf xs ys rfl h1
    exact ⟨hlen, (Samples.inF_real_iff ys).mpr hF⟩
  · obtain ⟨hlen, hreF⟩ := hf _ re (by simp [Samples.length]) hre
    obtain ⟨-, himF⟩ := hf _ im (by simp [Samples.length]) him
    refine ⟨?_, (Samples.inF_complex_iff _).mpr fun z hz => ?_⟩
    · rw [Samples.length, List.length_zip]; omega
    · obtain ⟨h1, h2⟩ := List.of_mem_zip hz
      exact ⟨hreF _ h1, himF _ h2⟩

theorem envelope_length (p : Config.Params) (x : Samples) : (envelope p x).length = x.length := by
  cases x <;> simp [envelope, Samples.length]

theorem storedEnvelope_ok {p : Config.Params} {g : Stage} {x : Samples} {e : List Rat}
    (h : storedEnvelope p g x = .ok e) : e.length = x.length ∧ ∀ r ∈ e, isF r = true := by
  rw [storedEnvelope, orOverflow_eq_ok_iff] at h
  exact ⟨(rndAll_length h).trans (envelope_length p x), isF_of_rndAll h⟩

theorem removeMean_ok {x y : List Rat} (h : removeMean x = .ok y) : y.length = x.length ∧ ∀ r ∈ y, isF r = true := by
  rw [removeMean, orOverflow_eq_ok_iff] at h
  exact ⟨by simpa using rndRats_length h, isF_of_rndRats h⟩

/-- A positive element of `F` below a value keeps the rounded value positive. -/
theorem rndRat_pos {u v r : Rat} (hu : isF u = true) (hpos : 0 < u) (huv : u ≤ v) (h : rndRat v = some r) :
    isF r = true ∧ 0 < r :=
  ⟨(rndRat_roundsTo h).1, hpos.trans_le (rndRat_mono huv (rndRat_of_isF hu) h)⟩

/-- The decimated rate is not below the target rate (R201). -/
theorem le_div_decimFactor {source target : Rat} (hs : 0 < source) (ht : 0 < target)
    (hq : decimFactor source target ≠ 0) : target ≤ source / decimFactor source target := by
  have hq' : (0 : Rat) < decimFactor source target := by exact_mod_cast Nat.pos_of_ne_zero hq
  have hfl : ((decimFactor source target : ℤ) : Rat) ≤ source / target := by
    have h0 : 0 ≤ source / target := by positivity
    rw [decimFactor, Int.toNat_of_nonneg (Rat.le_floor_iff.mpr (mod_cast h0))]
    exact Rat.floor_le _
  rw [le_div_iff₀ hq', mul_comm]
  exact (le_div_iff₀ ht).mp (mod_cast hfl)

/-! ### The design of a filter (R211) -/

theorem designChecks_ok {fs : Rat} {s : State} {low high : Rat} {taps : Nat}
    (h : designChecks fs s = .ok (low, high, taps)) :
    isF low = true ∧ isF high = true ∧ 0 < low ∧ low < high ∧ high < fs / 2 ∧ taps % 2 = 1 ∧ taps ≤ s.par.maxtaps := by
  simp only [designChecks, except_bind_eq_ok_iff, cfgFloat_eq_ok_iff, failIf_eq_ok_iff, except_pure_eq_ok_iff,
    Prod.mk.injEq, Bool.not_eq_false', Bool.and_eq_true, decide_eq_true_eq, decide_eq_false_iff_not,
    Bool.or_eq_false_iff, not_le, not_lt] at h
  obtain ⟨low, hlow, high, hhigh, -, ⟨h0, hlt⟩, -, hny, -, ⟨hodd, hmax⟩, rfl, rfl, rfl⟩ := h
  exact ⟨isF_of_dec hlow, isF_of_dec hhigh, h0, hlt, hny, by omega, hmax⟩

theorem designFilter_ok {p : Config.Params} {low high fs : Rat} {taps : Nat} {f : FilterSpec}
    (h : designFilter p low high fs taps = .ok f) : ∃ coef, rndAll (numBpdesign p low high fs taps) = some coef
      ∧ f = { valid := true, low := low, high := high, fs := fs, taps := taps, coef := coef } := by
  simp only [designFilter, except_bind_eq_ok_iff, orOverflow_eq_ok_iff, except_pure_eq_ok_iff] at h
  obtain ⟨coef, hcoef, rfl⟩ := h
  exact ⟨coef, hcoef, rfl⟩

/-- A designed filter is as R56 describes it. -/
theorem filter_ok_of_design {s : State} {fs low high : Rat} {taps : Nat} {f : FilterSpec} (hfs : isF fs = true)
    (hc : designChecks fs s = .ok (low, high, taps)) (hd : designFilter s.par low high fs taps = .ok f) :
    f.ok s.par = true := by
  obtain ⟨hlF, hhF, h0, hlt, hny, hodd, hmax⟩ := designChecks_ok hc
  obtain ⟨coef, hcoef, rfl⟩ := designFilter_ok hd
  have hlen : coef.length = taps := by simpa using rndAll_length hcoef
  have hF := isF_of_rndAll hcoef
  have hsym := rndAll_reverse hcoef (numBpdesign_reverse ..)
  simp [FilterSpec.ok, hlF, hhF, hfs, h0, hlt, hny, hodd, hmax, hlen, hsym, List.all_eq_true.mpr hF]

section Invariant
variable {s t : State}

/-! ### The rules of the commands -/

/-- A command stores a signal of a positive rate in `F`, at most `MAXLEN` elements, all in `F`. -/
theorem Inv.writeSignal (h : Inv s) (d : SlotIx) {rate : Rat} (chan : BitVec 2) {data : Samples}
    (hrate : isF rate = true ∧ 0 < rate) (hlen : data.length ≤ s.par.maxlen) (hF : data.inF = true) :
    Inv (writeSignal d rate chan data s) :=
  h.writeSlot d ((Signal.ok_iff _ _).mpr ⟨hrate.1, hrate.2, hlen, hF⟩) rfl

theorem Inv.demodBody (h : Inv s) {d a : SlotIx} (ht : demodBody d a s = .ok t) : Inv t := by
  simp only [Machine.demodBody, except_bind_eq_ok_iff, srcSignal_eq_ok_iff, except_pure_eq_ok_iff] at ht
  obtain ⟨b, hb, out, hout, rfl⟩ := ht
  obtain ⟨hrF, hr0, hlen, -⟩ := (Signal.ok_iff _ _).mp (h.signal_ok hb)
  obtain ⟨hl, hF⟩ := storedEnvelope_ok hout
  exact h.writeSignal d _ ⟨hrF, hr0⟩ (hl.trans_le hlen) ((Samples.inF_real_iff _).mpr hF)

theorem Inv.dcremBody (h : Inv s) {d a : SlotIx} (ht : dcremBody d a s = .ok t) : Inv t := by
  simp only [Machine.dcremBody, except_bind_eq_ok_iff, srcReal_eq_ok_iff, Prod.exists, except_pure_eq_ok_iff] at ht
  obtain ⟨b, xs, ⟨hb, hx⟩, out, hout, rfl⟩ := ht
  obtain ⟨hrF, hr0, hlen, -⟩ := (Signal.ok_iff _ _).mp (h.signal_ok hb)
  obtain ⟨hl, hF⟩ := removeMean_ok hout
  rw [hx] at hlen
  exact h.writeSignal d _ ⟨hrF, hr0⟩ (hl.trans_le hlen) ((Samples.inF_real_iff _).mpr hF)

theorem Inv.bpdesignBody (h : Inv s) {a : SlotIx} (ht : bpdesignBody a s = .ok t) : Inv t := by
  simp only [Machine.bpdesignBody, except_bind_eq_ok_iff, srcSignal_eq_ok_iff, Prod.exists, except_pure_eq_ok_iff] at ht
  obtain ⟨b, hb, low, high, taps, hc, f, hf, rfl⟩ := ht
  obtain ⟨hrF, -⟩ := (Signal.ok_iff _ _).mp (h.signal_ok hb)
  exact h.setFilter (filter_ok_of_design hrF hc hf)

theorem Inv.bpapplyBody (h : Inv s) {d a : SlotIx} (ht : bpapplyBody d a s = .ok t) : Inv t := by
  simp only [Machine.bpapplyBody, except_bind_eq_ok_iff, srcSignal_eq_ok_iff, except_pure_eq_ok_iff, applyFilter,
    orOverflow_eq_ok_iff] at ht
  obtain ⟨b, hb, -, -, -, -, -, -, out, hout, rfl⟩ := ht
  obtain ⟨hrF, hr0, hlen, -⟩ := (Signal.ok_iff _ _).mp (h.signal_ok hb)
  obtain ⟨hl, hF⟩ := mapParts_inF (N := s.par.maxlen) hout fun xs ys hx hy =>
    ⟨by rw [rndRats_length hy, same_length, hx]; exact hlen, isF_of_rndRats hy⟩
  exact h.writeSignal d _ ⟨hrF, hr0⟩ hl hF

theorem Inv.agcBody (h : Inv s) {d a : SlotIx} (ht : agcBody d a s = .ok t) : Inv t := by
  simp only [Machine.agcBody, except_bind_eq_ok_iff, srcSignal_eq_ok_iff, except_pure_eq_ok_iff, applyGains,
    orOverflow_eq_ok_iff] at ht
  obtain ⟨b, hb, target, -, e, -, out, hout, rfl⟩ := ht
  obtain ⟨hrF, hr0, hlen, -⟩ := (Signal.ok_iff _ _).mp (h.signal_ok hb)
  obtain ⟨hl, hF⟩ := mapParts_inF (N := s.par.maxlen) hout fun xs ys hx hy =>
    ⟨by rw [rndRats_length hy, List.length_zipWith, hx]; exact (min_le_left _ _).trans hlen, isF_of_rndRats hy⟩
  exact h.writeSignal d _ ⟨hrF, hr0⟩ hl hF

theorem Inv.decimBody (h : Inv s) {d a : SlotIx} (ht : decimBody d a s = .ok t) : Inv t := by
  simp only [Machine.decimBody, except_bind_eq_ok_iff, srcSignal_eq_ok_iff, except_pure_eq_ok_iff, cfgFloat_eq_ok_iff,
    failIf_eq_ok_iff, orOverflow_eq_ok_iff, decide_eq_false_iff_not, not_le, not_lt] at ht
  obtain ⟨b, hb, target, htF, -, ht0, -, hq, -, -, rate, hrate, out, hout, rfl⟩ := ht
  obtain ⟨-, hr0, hlen, -⟩ := (Signal.ok_iff _ _).mp (h.signal_ok hb)
  obtain ⟨hl, hF⟩ := mapParts_inF (N := s.par.maxlen) hout fun xs ys hx hy =>
    ⟨by rw [rndAll_length hy, List.length_map, List.length_range]; exact (Nat.div_le_self _ _).trans hlen, isF_of_rndAll hy⟩
  exact h.writeSignal d _ (rndRat_pos (isF_of_dec htF) ht0 (le_div_decimFactor hr0 ht0 (by omega)) hrate) hl hF

theorem Inv.resampBody (h : Inv s) {d a : SlotIx} (ht : resampBody d a s = .ok t) : Inv t := by
  simp only [Machine.resampBody, except_bind_eq_ok_iff, srcReal_eq_ok_iff, Prod.exists, except_pure_eq_ok_iff,
    cfgFloat_eq_ok_iff, failIf_eq_ok_iff, orOverflow_eq_ok_iff, decide_eq_false_iff_not, not_le, not_lt] at ht
  obtain ⟨b, xs, -, line, hline, -, hpos, rate, hrate, -, hcap, out, hout, rfl⟩ := ht
  have hN : (0 : Rat) ≤ (s.cfg.decPixelsPerLine.toNat : Rat) := by positivity
  have hline0 : 0 < line := pos_of_mul_pos_left hpos hN
  have hN1 : (1 : Rat) ≤ (s.cfg.decPixelsPerLine.toNat : Rat) := by
    have := (pos_iff_pos_of_mul_pos hpos).mp hline0
    exact_mod_cast this
  refine h.writeSignal d _ (rndRat_pos (isF_of_dec hline) hline0 (le_mul_of_one_le_right hline0.le hN1) hrate) ?_
    ((Samples.inF_real_iff _).mpr (isF_of_rndAll hout))
  rw [Samples.length, rndAll_length hout, numResample_length]
  exact hcap

theorem Inv.extractBody (h : Inv s) {d a : SlotIx} {ch : BitVec 2} (ht : extractBody d a ch s = .ok t) : Inv t := by
  simp only [Machine.extractBody, except_bind_eq_ok_iff, srcReal_eq_ok_iff, Prod.exists, except_pure_eq_ok_iff,
    orOverflow_eq_ok_iff] at ht
  obtain ⟨b, xs, ⟨hb, hx⟩, low, high, taps, hc, -, -, f, hf, y1, hy1, y2, hy2, out, hout, rfl⟩ := ht
  obtain ⟨hrF, hr0, hlen, -⟩ := (Signal.ok_iff _ _).mp (h.signal_ok hb)
  obtain ⟨hl, hF⟩ := removeMean_ok hout
  have hlen1 : out.length = xs.length := by
    rw [hl, (storedEnvelope_ok hy2).1, Samples.length, rndRats_length hy1, same_length]
  rw [hx] at hlen
  exact (h.setFilter (filter_ok_of_design hrF hc hf)).writeSignal d _ ⟨hrF, hr0⟩ (hlen1.trans_le hlen)
    ((Samples.inF_real_iff _).mpr hF)

theorem rasterPixels_length (used : List Rat) : (rasterPixels used).length = used.length := by
  unfold rasterPixels
  split <;> simp

theorem Inv.formimgBody (h : Inv s) {d a : SlotIx} {c : BitVec 4} (ht : formimgBody d a c s = .ok t) : Inv t := by
  simp only [Machine.formimgBody, except_bind_eq_ok_iff, srcReal_eq_ok_iff, Prod.exists, except_pure_eq_ok_iff,
    failIf_eq_ok_iff, decide_eq_false_iff_not] at ht
  obtain ⟨b, xs, ⟨hb, hx⟩, -, hw, -, hr, rfl⟩ := ht
  obtain ⟨-, -, hlen, -⟩ := (Signal.ok_iff _ _).mp (h.signal_ok hb)
  rw [hx, Samples.length] at hlen
  generalize s.cfg.decPixelsPerLine.toNat * c.toNat = width at *
  have hused : xs.length / width * width ≤ xs.length := Nat.div_mul_le_self _ _
  have hpix : (rasterPixels (xs.take (xs.length / width * width))).length = xs.length / width * width := by
    rw [rasterPixels_length, List.length_take, min_eq_left hused]
  have hstored := h.writeSlot d (v := .valid (.image ⟨_, _, _⟩)) ((Image.ok_iff _ _).mpr
    ⟨Nat.one_le_iff_ne_zero.mpr hr, Nat.one_le_iff_ne_zero.mpr hw, hpix, hused.trans hlen⟩) rfl
  split
  · exact hstored.congr
  · exact hstored

theorem Inv.combineBody (h : Inv s) {d a b : SlotIx} (ht : combineBody d a b s = .ok t) : Inv t := by
  simp only [Machine.combineBody, except_bind_eq_ok_iff, srcImages_eq_ok_iff, Prod.exists, except_pure_eq_ok_iff,
    failIf_eq_ok_iff, Bool.or_eq_false_iff, decide_eq_false_iff_not, not_not] at ht
  obtain ⟨p, q, ⟨hp, hq⟩, -, ⟨hrows, hwidth⟩, rfl⟩ := ht
  obtain ⟨hr1, hw1, hpl, hmax⟩ := (Image.ok_iff _ _).mp (h.image_ok hp)
  obtain ⟨-, -, hql, -⟩ := (Image.ok_iff _ _).mp (h.image_ok hq)
  refine h.writeSlot d ((Image.ok_iff _ _).mpr ⟨hr1, hw1, ?_, hmax⟩) rfl
  rw [List.length_zipWith, hpl, hql, ← hrows, ← hwidth, min_self]

theorem Inv.bopenBody (h : Inv s) {d : SlotIx} {kind : SigKind} (hd : (Instr.bopen d kind).slotsExist s.par.nslot = true)
    (ht : bopenBody d kind s = .ok t) : Inv t := by
  simp only [Machine.bopenBody, except_bind_eq_ok_iff, except_pure_eq_ok_iff, cfgFloat_eq_ok_iff, failIf_eq_ok_iff,
    decide_eq_false_iff_not, not_le] at ht
  obtain ⟨-, hV, rate, hrate, -, hpos, rfl⟩ := ht
  have hlt : d.toNat < s.par.nslot := by simpa [Instr.slotsExist, Instr.slotFields, Instr.dst, Instr.sources] using hd
  have hnone : (emptySamples kind).length ≤ s.par.maxlen ∧ (emptySamples kind).inF = true := by
    cases kind <;> exact ⟨Nat.zero_le _, rfl⟩
  refine h.loading hlt ((Signal.ok_iff _ _).mpr ⟨isF_of_dec hrate, hpos, hnone⟩) (fun i _ => ?_) rfl rfl rfl rfl rfl rfl
  rw [h.load.1 i, hV, Bool.false_and]

theorem Inv.bcloseBody (h : Inv s) (ht : bcloseBody s = .ok t) : Inv t := by
  unfold Machine.bcloseBody at ht
  split at ht
  · cases ht
  · rename_i b hb
    split at ht
    · cases ht
    · obtain rfl := Except.ok.inj ht
      rw [releaseLoad_setSlot_openSlot ((openBuffer_eq_some_iff s b).mp hb).1]
      exact h.writeSlot _ (h.open_ok hb) rfl

theorem Inv.exec (h : Inv s) {i : Instr} (ht : exec i s = .next t) : Inv t := by
  cases i with
  | nop => exact h.runCommand (i := .nop) (fun _ u hu => Except.ok.inj hu ▸ h) ht
  | bopen d kind => exact h.runCommand (fun hd _ => h.bopenBody hd) ht
  | bclose => exact h.runCommand (i := .bclose) (fun _ _ => h.bcloseBody) ht
  | bfree d => exact h.runCommand (fun _ u hu => Except.ok.inj hu ▸ h.writeSlot d rfl rfl) ht
  | demod d a => exact h.runCommand (fun _ _ => h.demodBody) ht
  | dcrem d a => exact h.runCommand (fun _ _ => h.dcremBody) ht
  | decim d a => exact h.runCommand (fun _ _ => h.decimBody) ht
  | resamp d a => exact h.runCommand (fun _ _ => h.resampBody) ht
  | bpdesign a => exact h.runCommand (fun _ _ => h.bpdesignBody) ht
  | bpapply d a => exact h.runCommand (fun _ _ => h.bpapplyBody) ht
  | agc d a => exact h.runCommand (fun _ _ => h.agcBody) ht
  | extract d a ch => exact h.runCommand (fun _ _ => h.extractBody) ht
  | formimg d a c => exact h.runCommand (fun _ _ => h.formimgBody) ht
  | combine d a b => exact h.runCommand (fun _ _ => h.combineBody) ht

/-! ### The load port (R176) -/

theorem Inv.appendWord (h : Inv s) {b : Signal} {v : Rat} (hb : openBuffer s = some b) (hv : isF v = true) :
    Inv (appendWord b v s) := by
  obtain ⟨hV, -⟩ := (openBuffer_eq_some_iff s b).mp hb
  obtain ⟨hrF, hr0, -, hF⟩ := (Signal.ok_iff _ _).mp (h.open_ok hb)
  have hpend := (pendingOk_iff s).mp h.pending
  unfold Machine.appendWord
  split
  · rename_i xs hx
    split
    · exact (h.abortLoad hV).recordFailure _ _ _
    · have hnone : s.wpend = none := Option.eq_none_iff_forall_ne_some.mpr fun u hu => by
        obtain ⟨-, b', zs, hb', hz, -⟩ := hpend u hu
        obtain rfl := Option.some.inj (hb.symm.trans hb')
        cases hx.symm.trans hz
      rw [hnone]
      refine h.storeLoad hb ((Signal.ok_iff _ _).mpr ⟨hrF, hr0, ?_, (Samples.inF_real_iff _).mpr fun x hx' => ?_⟩)
      · simp only [Samples.length, List.length_append, List.length_singleton]; omega
      · rw [hx, Samples.inF_real_iff] at hF
        rcases List.mem_append.mp hx' with hx' | hx'
        · exact hF x hx'
        · exact List.mem_singleton.mp hx' ▸ hv
  · rename_i zs hz hw
    split
    · exact (h.abortLoad hV).recordFailure _ _ _
    · rename_i hroom
      obtain ⟨hp, hs, hf, hl, -⟩ := h
      refine ⟨hp, hs, hf, hl, (pendingOk_iff _).mpr ?_⟩
      rintro u ⟨⟩
      exact ⟨hv, b, zs, hb, hz, not_le.mp hroom⟩
  · rename_i zs re hz hw
    obtain ⟨hreF, b', zs', hb', hz', hroom⟩ := hpend re hw
    obtain rfl := Option.some.inj (hb.symm.trans hb')
    obtain rfl := Samples.complex.inj (hz.symm.trans hz')
    refine h.storeLoad hb ((Signal.ok_iff _ _).mpr ⟨hrF, hr0, ?_, (Samples.inF_complex_iff _).mpr fun z hz'' => ?_⟩)
    · simp only [Samples.length, List.length_append, List.length_singleton]; omega
    · rw [hz, Samples.inF_complex_iff] at hF
      rcases List.mem_append.mp hz'' with hz'' | hz''
      · exact hF z hz''
      · obtain rfl := List.mem_singleton.mp hz''
        exact ⟨hreF, hv⟩

theorem Inv.writeData (h : Inv s) (w : Word) : Inv (writeData w s) := by
  unfold Machine.writeData
  split
  · exact h.recordFailure _ _ _
  · rename_i b hb
    split
    · exact (h.abortLoad ((openBuffer_eq_some_iff s b).mp hb).1).recordFailure _ _ _
    · rename_i v hv
      exact h.appendWord hb (isF_of_dec hv)

/-! ### The accesses and the step -/

theorem Inv.serveCommand (h : Inv s) {w : Word} (ht : serveCommand w s = .next t) : Inv t := by
  unfold Machine.serveCommand at ht
  split at ht
  · cases ht; exact h.recordFailure _ _ _
  · exact h.exec ht

/-- A write either runs a command, feeds the load port, or changes nothing the invariant speaks of. -/
theorem Inv.writeReg (h : Inv s) {r : Reg} {w : Word} (ht : writeReg r w s = .next t) : Inv t := by
  cases r with
  | cmd => exact h.serveCommand ht
  | wdata => cases ht; exact h.writeData w
  | _ => cases ht; exact h.congr

/-- A read changes at most a pointer. -/
theorem Inv.readReg (h : Inv s) (r : Reg) : Inv (readReg r s).2 := by
  cases r with
  | rdata =>
    show Inv (readData s).2
    unfold readData
    split
    · exact h.congr
    · exact h
  | fsdata =>
    show Inv (readCoef s).2
    unfold readCoef
    split
    · exact h.congr
    · exact h
  | _ => exact h

theorem Inv.serve (h : Inv s) {x : HostInput} (ht : serve x s = .next t) : Inv t := by
  cases x with
  | regWrite ix w =>
    unfold Machine.serve serveWrite at ht
    dsimp only at ht
    split at ht
    · cases ht; exact h
    · exact h.writeReg ht
  | regRead ix =>
    cases ht
    unfold serveRead
    split
    · exact h.congr
    · rename_i r _
      exact (h.readReg r).congr
  | reset =>
    cases ht
    exact (inv_resetWith h.params).congr

end Invariant

/-- Settles O45: an idle step changes nothing, and serving any input keeps the invariant. -/
theorem stepKeepsTheInvariant : Obligations.StepKeepsTheInvariant := by
  intro s t h ht
  obtain ⟨-, ho⟩ | ⟨x, rest, -, ho⟩ := step_cases ht
  · cases ho; exact h
  · exact Inv.serve (s := setPendingInputs rest s) h.congr ho.symm

end Sys2Proof.Machine
end
section
/-! PROOFS. What every command does, once: its rule fails with a reason, or makes one of seven updates; in either case it
looks at no status item. From it the frame of every command (60_exceptions.md R284, R286; 40_buffer_commands.md R179). -/

namespace Sys2Proof.Machine

open Sys2Proof.Safety

/-! ### The rule of a command -/

/-- The rule of a command: what `exec` hands to `runCommand`. -/
def rule : Instr → State → Except Failure State
  | .nop, s => .ok s
  | .bopen d kind, s => bopenBody d kind s
  | .bclose, s => bcloseBody s
  | .bfree d, s => .ok (writeSlot d .empty s)
  | .demod d a, s => demodBody d a s
  | .dcrem d a, s => dcremBody d a s
  | .decim d a, s => decimBody d a s
  | .resamp d a, s => resampBody d a s
  | .bpdesign a, s => bpdesignBody a s
  | .bpapply d a, s => bpapplyBody d a s
  | .agc d a, s => agcBody d a s
  | .extract d a ch, s => extractBody d a ch s
  | .formimg d a c, s => formimgBody d a c s
  | .combine d a b, s => combineBody d a b s

theorem exec_eq_runCommand_rule (i : Instr) (s : State) : exec i s = runCommand i s (rule i s) := by
  cases i <;> rfl

/-! ### A failure reports a reason (60_exceptions.md R283) -/

theorem Reason.errClass_eq_ok_iff (r : Reason) : r.errClass = .ok ↔ r = .none := by
  cases r <;> simp [Reason.errClass]

/-- If the computation fails, it names a reason. -/
def NamesReason {α : Type} (x : Except Failure α) : Prop := ∀ f, x = .error f → f.reason ≠ .none

theorem namesReason_ok {α : Type} (v : α) : NamesReason (.ok v : Except Failure α) := by
  rintro f ⟨⟩

theorem namesReason_failAt {α : Type} {g : Stage} {r : Reason} (h : r ≠ .none) :
    NamesReason (failAt g r : Except Failure α) := by
  rintro f ⟨⟩; exact h

theorem NamesReason.bind {α β : Type} {x : Except Failure α} {f : α → Except Failure β} (hx : NamesReason x)
    (hf : ∀ v, NamesReason (f v)) : NamesReason (x >>= f) := by
  cases x with
  | ok v => exact hf v
  | error e => rintro f ⟨⟩; exact hx e rfl

theorem namesReason_failIf {bad : Bool} {g : Stage} {r : Reason} (h : r ≠ .none) : NamesReason (failIf bad g r) := by
  cases bad with
  | false => exact namesReason_ok ()
  | true => exact namesReason_failAt h

theorem namesReason_orOverflow {α : Type} {g : Stage} {o : Option α} : NamesReason (orOverflow g o) := by
  cases o with
  | none => exact namesReason_failAt (by decide)
  | some v => exact namesReason_ok v

theorem namesReason_cfgFloat {g : Stage} {w : Word} : NamesReason (cfgFloat g w) := by
  unfold cfgFloat
  cases dec w with
  | none => exact namesReason_failAt (by decide)
  | some v => exact namesReason_ok v

theorem namesReason_srcBuffer (s : State) (a : SlotIx) : NamesReason (srcBuffer s a) := by
  unfold srcBuffer
  cases slotAt s a with
  | empty => exact namesReason_failAt (by decide)
  | opened _ => exact namesReason_failAt (by decide)
  | valid b => exact namesReason_ok b

theorem namesReason_asSignal (b : Buffer) : NamesReason (asSignal b) := by
  cases b with
  | signal b => exact namesReason_ok b
  | image _ => exact namesReason_failAt (by decide)

theorem namesReason_asReal (x : Samples) : NamesReason (asReal x) := by
  cases x with
  | real xs => exact namesReason_ok xs
  | complex _ => exact namesReason_failAt (by decide)

theorem namesReason_asImage (b : Buffer) : NamesReason (asImage b) := by
  cases b with
  | signal _ => exact namesReason_failAt (by decide)
  | image im => exact namesReason_ok im

theorem namesReason_srcSignal (s : State) (a : SlotIx) : NamesReason (srcSignal s a) :=
  (namesReason_srcBuffer s a).bind namesReason_asSignal

theorem namesReason_srcReal (s : State) (a : SlotIx) : NamesReason (srcReal s a) :=
  (namesReason_srcSignal s a).bind fun b => (namesReason_asReal b.data).bind fun xs => namesReason_ok (b, xs)

theorem namesReason_srcImages (s : State) (a b : SlotIx) : NamesReason (srcImages s a b) :=
  (namesReason_srcBuffer s a).bind fun x => (namesReason_srcBuffer s b).bind fun y =>
    (namesReason_asImage x).bind fun p => (namesReason_asImage y).bind fun q => namesReason_ok (p, q)

theorem namesReason_designChecks (fs : Rat) (s : State) : NamesReason (designChecks fs s) :=
  namesReason_cfgFloat.bind fun _ => namesReason_cfgFloat.bind fun _ => (namesReason_failIf (by decide)).bind fun _ =>
    (namesReason_failIf (by decide)).bind fun _ => (namesReason_failIf (by decide)).bind fun _ => namesReason_ok _

theorem namesReason_designFilter {p : Config.Params} {low high fs : Rat} {taps : Nat} :
    NamesReason (designFilter p low high fs taps) :=
  namesReason_orOverflow.bind fun _ => namesReason_ok _

/-! ### What a rule can do -/

/-- What the rule of a command may write when it succeeds on `s`, as the update it makes. -/
inductive Update (s : State) : Instr → (State → State) → Prop
  /-- `NOP` writes nothing. -/
  | nothing : Update s .nop id
  /-- `BOPEN` opens its slot and claims the load port. -/
  | opens (d : SlotIx) (kind : SigKind) (b : Signal) :
    Update s (.bopen d kind) fun u => claimLoad d (setSlot d (.opened b) u)
  /-- `BCLOSE` completes the OPEN slot. -/
  | closes (b : Buffer) (h : s.openV = true) : Update s .bclose (writeSlot s.openSlot (.valid b))
  /-- A command with a destination writes or empties it. -/
  | stores (i : Instr) (d : SlotIx) (v : Slot) (h : i.dst = some d) : Update s i (writeSlot d v)
  /-- `BPDESIGN` stores a filter. -/
  | designs (a : SlotIx) (f : FilterSpec) : Update s (.bpdesign a) (setFilter f)
  /-- `EXTRACT` stores a filter and writes its destination. -/
  | extracts (d a : SlotIx) (ch : BitVec 2) (f : FilterSpec) (v : Slot) :
    Update s (.extract d a ch) fun u => writeSlot d v (setFilter f u)
  /-- `FORMIMG` of flat samples writes its destination and raises `DEGEN`. -/
  | degenerate (d a : SlotIx) (c : BitVec 4) (v : Slot) :
    Update s (.formimg d a c) fun u => raiseDegen (writeSlot d v u)

/-- The answers of one rule on two states: the same failure, with a reason, or the same update of the two. -/
def SameAnswer (i : Instr) (s s' : State) (x x' : Except Failure State) : Prop :=
  (∃ f, f.reason ≠ .none ∧ x = .error f ∧ x' = .error f) ∨ ∃ g, Update s i g ∧ x = .ok (g s) ∧ x' = .ok (g s')

theorem SameAnswer.of_update {i : Instr} {s s' : State} {g : State → State} (h : Update s i g) :
    SameAnswer i s s' (.ok (g s)) (.ok (g s')) := .inr ⟨g, h, rfl, rfl⟩

theorem SameAnswer.failAt {i : Instr} {s s' : State} {g : Stage} {r : Reason} (h : r ≠ .none) :
    SameAnswer i s s' (failAt g r) (failAt g r) := .inl ⟨_, h, rfl, rfl⟩

/-- Two rules that begin with the same computation. -/
theorem SameAnswer.bind {i : Instr} {s s' : State} {α : Type} {x : Except Failure α} {f f' : α → Except Failure State}
    (hx : NamesReason x) (hf : ∀ v, SameAnswer i s s' (f v) (f' v)) : SameAnswer i s s' (x >>= f) (x >>= f') := by
  cases x with
  | ok v => exact hf v
  | error e => exact .inl ⟨e, hx e rfl, rfl, rfl⟩

theorem SameAnswer.check {i : Instr} {s s' : State} {bad : Bool} {g : Stage} {r : Reason}
    {f f' : Unit → Except Failure State} (hf : ∀ v, SameAnswer i s s' (f v) (f' v)) (h : r ≠ .none := by decide) :
    SameAnswer i s s' (failIf bad g r >>= f) (failIf bad g r >>= f') := .bind (namesReason_failIf h) hf

theorem SameAnswer.round {i : Instr} {s s' : State} {α : Type} {g : Stage} {o : Option α}
    {f f' : α → Except Failure State} (hf : ∀ v, SameAnswer i s s' (f v) (f' v)) :
    SameAnswer i s s' (orOverflow g o >>= f) (orOverflow g o >>= f') := .bind namesReason_orOverflow hf

/-- A state with other values in the four status items. -/
def withStatus (e : ErrClass) (sticky degen : Bool) (info : ErrInfo) (s : State) : State :=
  { s with err := e, sticky := sticky, degen := degen, errInfo := info }

section Rules
variable (s : State) (e : ErrClass) (st dg : Bool) (info : ErrInfo)

theorem bcloseBody_sameAnswer :
    SameAnswer .bclose s (withStatus e st dg info s) (bcloseBody s) (bcloseBody (withStatus e st dg info s)) := by
  have hopen : openBuffer (withStatus e st dg info s) = openBuffer s := rfl
  unfold bcloseBody
  rw [hopen]
  cases hb : openBuffer s with
  | none => exact .failAt (by decide)
  | some b =>
    obtain ⟨hV, -⟩ := (openBuffer_eq_some_iff s b).mp hb
    show SameAnswer _ _ _ (if s.wpend.isSome then _ else _) (if s.wpend.isSome then _ else _)
    split
    · exact .failAt (by decide)
    · rw [releaseLoad_setSlot_openSlot hV, releaseLoad_setSlot_openSlot (s := withStatus e st dg info s) hV]
      exact .of_update (.closes (.signal b) hV)

/-- The last part of `FORMIMG`'s rule, flat or not (47_raster_formatter.md R264). -/
theorem image_sameAnswer (s' : State) (d a : SlotIx) (c : BitVec 4) (im : Buffer) (flat : Bool) :
    SameAnswer (.formimg d a c) s s'
      (.ok (if flat then raiseDegen (writeBuffer d im s) else writeBuffer d im s))
      (.ok (if flat then raiseDegen (writeBuffer d im s') else writeBuffer d im s')) := by
  cases flat with
  | true => exact .of_update (.degenerate d a c (.valid im))
  | false => exact .of_update (.stores _ d (.valid im) rfl)

/-- The one account of the fourteen rules: each fails with a reason or makes one of the updates, and either way it does
the same whatever the status items hold. -/
theorem rule_sameAnswer (i : Instr) :
    SameAnswer i s (withStatus e st dg info s) (rule i s) (rule i (withStatus e st dg info s)) := by
  cases i with
  | nop => exact .of_update .nothing
  | bopen d kind =>
    exact .check fun _ => .bind namesReason_cfgFloat fun _ => .check fun _ => .of_update (.opens d kind _)
  | bclose => exact bcloseBody_sameAnswer s e st dg info
  | bfree d => exact .of_update (.stores _ d _ rfl)
  | demod d a => exact .bind (namesReason_srcSignal s a) fun _ => .round fun _ => .of_update (.stores _ d _ rfl)
  | dcrem d a => exact .bind (namesReason_srcReal s a) fun (_, _) => .round fun _ => .of_update (.stores _ d _ rfl)
  | decim d a =>
    exact .bind (namesReason_srcSignal s a) fun _ => .bind namesReason_cfgFloat fun _ => .check fun _ => .check fun _ =>
      .check fun _ => .round fun _ => .round fun _ => .of_update (.stores _ d _ rfl)
  | resamp d a =>
    exact .bind (namesReason_srcReal s a) fun (_, _) => .bind namesReason_cfgFloat fun _ => .check fun _ =>
      .round fun _ => .check fun _ => .round fun _ => .of_update (.stores _ d _ rfl)
  | bpdesign a =>
    exact .bind (namesReason_srcSignal s a) fun _ => .bind (namesReason_designChecks _ s) fun (_, _, _) =>
      .bind namesReason_designFilter fun _ => .of_update (.designs a _)
  | bpapply d a =>
    exact .bind (namesReason_srcSignal s a) fun _ => .check fun _ => .check fun _ => .check fun _ => .round fun _ =>
      .of_update (.stores _ d _ rfl)
  | agc d a =>
    exact .bind (namesReason_srcSignal s a) fun _ => .bind namesReason_cfgFloat fun _ => .round fun _ => .round fun _ =>
      .of_update (.stores _ d _ rfl)
  | extract d a ch =>
    exact .bind (namesReason_srcReal s a) fun (_, _) => .bind (namesReason_designChecks _ s) fun (_, _, _) =>
      .check fun _ => .bind namesReason_designFilter fun _ => .round fun _ => .round fun _ => .round fun _ =>
        .of_update (.extracts d a ch _ _)
  | formimg d a c =>
    exact .bind (namesReason_srcReal s a) fun (_, _) => .check fun _ => .check fun _ => image_sameAnswer s _ d a c _ _
  | combine d a b =>
    exact .bind (namesReason_srcImages s a b) fun (_, _) => .check fun _ => .of_update (.stores _ d _ rfl)

end Rules

/-! ### The outcomes of a command, on two states that differ in the status items -/

section Outcomes
variable {i : Instr} {s t : State} {g : State → State}

/-- What a command does, on a state and on the same with other status items: a slot it names does not exist; or it takes a
failure that has a reason; or it makes one of the updates and succeeds. -/
theorem exec_withStatus_cases (h : exec i s = .next t) (e : ErrClass) (st dg : Bool) (info : ErrInfo) :
    ∃ t', exec i (withStatus e st dg info s) = .next t' ∧
      ((i.slotsExist s.par.nslot = false ∧ t = takeDecodeFailure i.op.code .badSlot s
          ∧ t' = takeDecodeFailure i.op.code .badSlot (withStatus e st dg info s))
        ∨ (i.slotsExist s.par.nslot = true ∧ ∃ f, f.reason ≠ .none ∧ t = takeFailure i f s
          ∧ t' = takeFailure i f (withStatus e st dg info s))
        ∨ (i.slotsExist s.par.nslot = true ∧ ∃ g, Update s i g ∧ t = recordSuccess (g s)
          ∧ t' = recordSuccess (g (withStatus e st dg info s)))) := by
  rw [exec_eq_runCommand_rule] at h
  have hrule := rule_sameAnswer s e st dg info i
  refine ⟨_, (exec_eq_runCommand_rule _ _).trans (runCommand_next _ _ _), ?_⟩
  unfold commandResult
  obtain ⟨hs, rfl⟩ | ⟨hs, f, hf, rfl⟩ | ⟨hs, u, hu, rfl⟩ := runCommand_cases h
  · exact .inl ⟨hs, rfl, if_neg (by simp [withStatus, hs])⟩
  all_goals
    rw [if_pos (show i.slotsExist (withStatus e st dg info s).par.nslot = true from hs)]
    obtain ⟨f', hf', hx, hx'⟩ | ⟨g, hg, hx, hx'⟩ := hrule
  · obtain rfl := Except.error.inj (hf.symm.trans hx)
    exact .inr (.inl ⟨hs, f, hf', rfl, by rw [hx']⟩)
  · cases hf.symm.trans hx
  · cases hu.symm.trans hx
  · obtain rfl := Except.ok.inj (hu.symm.trans hx)
    exact .inr (.inr ⟨hs, g, hg, rfl, by rw [hx']⟩)

/-- What a command does. -/
theorem exec_cases (h : exec i s = .next t) :
    (i.slotsExist s.par.nslot = false ∧ t = takeDecodeFailure i.op.code .badSlot s)
    ∨ (i.slotsExist s.par.nslot = true ∧ ∃ f, f.reason ≠ .none ∧ t = takeFailure i f s)
    ∨ (i.slotsExist s.par.nslot = true ∧ ∃ g, Update s i g ∧ t = recordSuccess (g s)) := by
  obtain ⟨-, -, ⟨hs, ht, -⟩ | ⟨hs, f, hf, ht, -⟩ | ⟨hs, g, hg, ht, -⟩⟩ :=
    exec_withStatus_cases h s.err s.sticky s.degen s.errInfo
  · exact .inl ⟨hs, ht⟩
  · exact .inr (.inl ⟨hs, f, hf, ht⟩)
  · exact .inr (.inr ⟨hs, g, hg, ht⟩)

/-! ### No command reads the status items -/

theorem writeSlot_withStatus (d : SlotIx) (v : Slot) (e : ErrClass) (st dg : Bool) (info : ErrInfo) (s : State) :
    writeSlot d v (withStatus e st dg info s) = withStatus e st dg info (writeSlot d v s) := by
  unfold writeSlot
  show (if s.openV && s.openSlot == d then _ else _) = _
  split <;> rfl

theorem invalidate_withStatus (i : Instr) (e : ErrClass) (st dg : Bool) (info : ErrInfo) (s : State) :
    invalidate i (withStatus e st dg info s) = withStatus e st dg info (invalidate i s) := by
  unfold invalidate
  cases i.dst with
  | none => dsimp only; split <;> rfl
  | some d => dsimp only; rw [writeSlot_withStatus]; split <;> rfl

/-- An update carries the status items along, but that it may raise `DEGEN`. -/
theorem Update.withStatus (h : Update s i g) (e : ErrClass) (st dg : Bool) (info : ErrInfo) :
    ∃ dg', g (withStatus e st dg info s) = Machine.withStatus e st dg' info (g s) := by
  cases h with
  | nothing => exact ⟨dg, rfl⟩
  | opens d kind b => exact ⟨dg, rfl⟩
  | closes b _ => exact ⟨dg, writeSlot_withStatus ..⟩
  | stores _ d v _ => exact ⟨dg, writeSlot_withStatus ..⟩
  | designs a f => exact ⟨dg, rfl⟩
  | extracts d a ch f v => exact ⟨dg, writeSlot_withStatus d v e st dg info (setFilter f s)⟩
  | degenerate d a c v => exact ⟨true, congrArg raiseDegen (writeSlot_withStatus d v e st dg info s)⟩

/-- Settles O42: the two runs fail for the same reason or make the same update. -/
theorem commandsReadNoStatus : Obligations.CommandsReadNoStatus := by
  intro i s t e st dg info h
  obtain ⟨t', ht', hcases⟩ := exec_withStatus_cases h e st dg info
  refine ⟨t', ht', ?_⟩
  obtain ⟨-, rfl, rfl⟩ | ⟨-, f, -, rfl, rfl⟩ | ⟨-, g, hg, rfl, rfl⟩ := hcases
  · exact ⟨rfl, rfl, rfl, rfl, rfl, rfl, fun _ => rfl⟩
  · rw [takeFailure, invalidate_withStatus]
    exact ⟨rfl, rfl, rfl, rfl, rfl, rfl, fun _ => rfl⟩
  · obtain ⟨dg', hdg⟩ := hg.withStatus e st dg info
    rw [hdg]
    exact ⟨rfl, rfl, rfl, rfl, rfl, rfl, fun herr => absurd rfl herr⟩

/-! ### The load port -/

theorem loadAfter_writeSlot (d : SlotIx) (v : Slot) (s : State) : LoadAfter (some d) s (writeSlot d v s) := by
  unfold LoadAfter
  obtain ⟨hV, rfl, hload⟩ | ⟨hne, hload⟩ := writeSlot_load d v s
  · rw [if_pos ⟨hV, rfl⟩]; exact hload
  · rw [if_neg fun hd => hne ⟨hd.1, (Option.some.inj hd.2).symm⟩]; exact hload

theorem loadAfter_none (hV : t.openV = s.openV) (hO : t.openSlot = s.openSlot) (hw : t.wpend = s.wpend) :
    LoadAfter none s t := by
  rw [LoadAfter, if_neg (by simp)]
  exact ⟨hV, hO, hw⟩

/-! ### The effects of a failure (60_exceptions.md R284 (b)) -/

theorem invalidate_emptied {d : SlotIx} (h : i.dst = some d) (s : State) : slotAt (invalidate i s) d = .empty := by
  rw [slotAt_congr (s := writeSlot d .empty s) (by simp [invalidate, h, apply_ite State.slots]) (by simp),
    slotAt_writeSlot_empty_self]

theorem invalidate_others (i : Instr) (s : State) : OthersSame i.dst s (invalidate i s) := by
  intro j hj
  obtain ⟨-, hi⟩ | ⟨d, hd, hi⟩ := invalidate_cases i s
  · exact slotAt_congr (by rw [hi]; split <;> rfl) (by simp) j
  · rw [slotAt_congr (s := writeSlot d .empty s) (by rw [hi]; split <;> rfl) (by simp),
      slotAt_writeSlot_ne _ _ fun hdj => hj (hd.trans (congrArg some hdj))]

theorem invalidate_load (i : Instr) (s : State) : LoadAfter i.dst s (invalidate i s) := by
  obtain ⟨hd, hi⟩ | ⟨d, hd, hi⟩ := invalidate_cases i s <;> rw [hd, hi] <;> split
  · exact loadAfter_none rfl rfl rfl
  · exact loadAfter_none rfl rfl rfl
  · exact loadAfter_writeSlot d .empty s
  · exact loadAfter_writeSlot d .empty s

/-- Taking a failure has exactly the effects listed. -/
theorem takeFailure_fails (i : Instr) (f : Failure) (s : State) : Fails i f.stage f.reason s (takeFailure i f s) where
  err := rfl
  sticky := rfl
  errInfo := rfl
  emptied _ hd := invalidate_emptied hd s
  others := invalidate_others i s
  load := invalidate_load i s
  lost h := by simp [takeFailure, invalidate, h]
  kept h := by
    obtain ⟨-, hi⟩ | ⟨d, -, hi⟩ := invalidate_cases i s <;> simp [takeFailure, hi, h]
  degen := by simp [takeFailure]
  rest := by constructor <;> simp [takeFailure]

/-! ### The frame of an update -/

theorem Update.rest (h : Update s i g) : SameRest s (g s) := by
  cases h <;> constructor <;> simp

/-- The only slot an update writes is the destination or, for `BCLOSE`, the OPEN slot. -/
theorem Update.others (h : Update s i g) {j : SlotIx} (hj : i.dst ≠ some j)
    (hclose : ¬ (i = .bclose ∧ s.openV = true ∧ j = s.openSlot)) : slotAt (g s) j = slotAt s j := by
  cases h with
  | nothing => rfl
  | opens d kind b => exact slotAt_setSlot_ne _ s fun hd => hj (congrArg some hd)
  | closes b hV => exact slotAt_writeSlot_ne _ s fun hO => hclose ⟨rfl, hV, hO.symm⟩
  | stores _ d v hd => exact slotAt_writeSlot_ne v s fun hdj => hj (hdj ▸ hd)
  | designs a f => rfl
  | extracts d a ch f v => exact slotAt_writeSlot_ne v (setFilter f s) fun hd => hj (congrArg some hd)
  | degenerate d a c v => exact slotAt_writeSlot_ne v s fun hd => hj (congrArg some hd)

theorem Update.fspec (h : Update s i g) (hi : i.designsFilter = false) : (g s).fspec = s.fspec := by
  cases h with
  | designs | extracts => cases hi
  | _ => simp

theorem Update.degen (h : Update s i g) :
    (g s).degen = s.degen ∨ ((g s).degen = true ∧ ∃ d a c, i = .formimg d a c) := by
  cases h with
  | degenerate d a c v => exact .inr ⟨rfl, d, a, c, rfl⟩
  | _ => exact .inl (by simp)

theorem Update.load (h : Update s i g) (hopen : ¬ ∃ d k, i = .bopen d k) (hclose : i ≠ .bclose) :
    LoadAfter i.dst s (g s) := by
  cases h with
  | nothing => exact loadAfter_none rfl rfl rfl
  | opens d kind b => exact absurd ⟨d, kind, rfl⟩ hopen
  | closes b _ => exact absurd rfl hclose
  | stores _ d v hd => exact hd ▸ loadAfter_writeSlot d v s
  | designs a f => exact loadAfter_none rfl rfl rfl
  | extracts d a ch f v => exact loadAfter_writeSlot d v (setFilter f s)
  | degenerate d a c v => exact loadAfter_writeSlot d v s

theorem Update.flags (h : Update s i g) : (g s).sticky = s.sticky ∧ (g s).errInfo = s.errInfo := by
  cases h <;> simp

end Outcomes

/-- Settles O40: by the outcome of the command. A decode failure only reports, a failure has the effects listed and a
class other than 0, and a success makes one of the updates. -/
theorem commandsLeaveTheRestAlone : Obligations.CommandsLeaveTheRestAlone := by
  intro i s t h
  obtain ⟨hs, rfl⟩ | ⟨hs, f, hf, rfl⟩ | ⟨hs, g, hg, rfl⟩ := exec_cases h
  · exact ⟨⟨rfl, rfl, rfl, rfl, rfl, rfl, rfl⟩, fun _ _ _ => rfl, fun _ => rfl, .inl rfl, fun hs' => by simp [hs] at hs',
      fun _ => loadAfter_none rfl rfl rfl, fun herr => by cases herr⟩
  · obtain ⟨herr, -, -, -, hothers, hload, -, hkept, hdegen, hrest⟩ := takeFailure_fails i f s
    exact ⟨hrest, fun j hj _ => hothers j hj, hkept, .inl hdegen, fun _ _ _ => hload, fun hs' => by simp [hs] at hs',
      fun hok => absurd ((Reason.errClass_eq_ok_iff _).mp (herr.symm.trans hok)) hf⟩
  · exact ⟨{ hg.rest with }, fun _ hj hclose => hg.others hj hclose, hg.fspec, hg.degen,
      fun _ hopen hclose => hg.load (fun hi => hopen ⟨rfl, hi⟩) fun hi => hclose ⟨rfl, hi⟩,
      fun hs' => by simp [hs] at hs', fun _ => hg.flags⟩

end Sys2Proof.Machine
end
section
/-! PROOFS. The register port (10_state.md R58 to R77): what a write changes, what a read returns, and the reset. -/

namespace Sys2Proof.Machine

open Sys2Proof.Safety

/-! ### Serving an access to a named register -/

@[simp] theorem serve_regWrite_index (r : Reg) (w : Word) (s : State) :
    serve (.regWrite r.index w) s = writeReg r w s := by
  simp [serve, serveWrite]

@[simp] theorem serve_regRead_index (r : Reg) (s : State) :
    serve (.regRead r.index) s = .next (recordRead (readReg r s)) := by
  simp [serve, serveRead]

theorem readCoef_of_lt {s : State} (hv : s.fspec.valid = true) (hlt : s.fsptr.toNat < s.fspec.taps) :
    readCoef s = (enc (s.fspec.coef.getD s.fsptr.toNat 0), { s with fsptr := s.fsptr + 1#32 }) := by
  simp [readCoef, hv, hlt]

theorem readCoef_of_not {s : State} (h : s.fspec.valid = false ∨ s.fspec.taps ≤ s.fsptr.toNat) :
    readCoef s = (0#32, s) := by
  rw [readCoef, if_neg]
  rcases h with h | h <;> simp [h]

/-! ### Who writes `ERR` (R58) -/

section Err
variable {s t : State}

theorem readReg_err (r : Reg) (s : State) : (readReg r s).2.err = s.err := by
  cases r with
  | rdata => show (readData s).2.err = s.err; unfold readData; split <;> rfl
  | fsdata => show (readCoef s).2.err = s.err; unfold readCoef; split <;> rfl
  | _ => rfl

/-- A `WDATA` write fails, with a reason, or leaves `ERR` alone. -/
theorem writeData_err (w : Word) (s : State) :
    (writeData w s).err = s.err ∨ ∃ r u, r ≠ .none ∧ writeData w s = takePortFailure r u := by
  unfold writeData
  split
  · exact .inr ⟨_, s, by decide, rfl⟩
  · rename_i b _
    split
    · exact .inr ⟨_, abortLoad s, by decide, rfl⟩
    · unfold appendWord
      split
      · split
        · exact .inr ⟨_, abortLoad s, by decide, rfl⟩
        · exact .inl rfl
      · split
        · exact .inr ⟨_, abortLoad s, by decide, rfl⟩
        · exact .inl rfl
      · exact .inl rfl

/-- Among the writes, only those to `CMD` and `WDATA` can change `ERR`. -/
theorem writeReg_err {r : Reg} {w : Word} (h : writeReg r w s = .next t) (hcmd : r ≠ .cmd) (hwdata : r ≠ .wdata) :
    t.err = s.err := by
  cases r with
  | cmd => exact absurd rfl hcmd
  | wdata => exact absurd rfl hwdata
  | _ => cases h; rfl

/-- An access that is neither the reset nor a `CMD` write changes `ERR` only as a failed `WDATA` write. -/
theorem serve_err {x : HostInput} (h : serve x s = .next t) (hreset : x ≠ .reset)
    (hcmd : ∀ w, x ≠ .regWrite Reg.cmd.index w) :
    t.err = s.err ∨ ∃ w r u, x = .regWrite Reg.wdata.index w ∧ r ≠ .none ∧ t = takePortFailure r u := by
  cases x with
  | reset => exact absurd rfl hreset
  | regRead ix =>
    cases h
    unfold serveRead
    split
    · exact .inl rfl
    · exact .inl (readReg_err _ s)
  | regWrite ix w =>
    cases hr : Reg.atIndex ix with
    | none =>
      obtain rfl : s = t := by simpa [serve, serveWrite, hr] using h
      exact .inl rfl
    | some r =>
      obtain rfl := index_of_atIndex hr
      rw [serve_regWrite_index] at h
      by_cases hwdata : r = .wdata
      · subst hwdata
        cases h
        obtain heq | ⟨r, u, hne, hfail⟩ := writeData_err w s
        · exact .inl heq
        · exact .inr ⟨w, r, u, rfl, hne, hfail⟩
      · exact .inl (writeReg_err h (fun hc => hcmd w (by rw [hc])) hwdata)

end Err

/-- Settles O44: the step serves the input, and of those left only a failed `WDATA` write changes `ERR`. -/
theorem errIsWrittenByCommandsAndFailedLoads : Obligations.ErrIsWrittenByCommandsAndFailedLoads := by
  intro s t x rest hp hstep hreset hcmd herr
  have hserve : serve x (setPendingInputs rest s) = .next t := by simpa [step, hp] using hstep
  obtain heq | ⟨w, r, u, rfl, hr, rfl⟩ := serve_err hserve hreset hcmd
  · exact absurd heq herr
  · exact ⟨fun hok => hr ((Reason.errClass_eq_ok_iff r).mp hok), rfl, w, rfl, rfl⟩

/-! ### Configuration registers and pointers (R61 to R70, R72, R74) -/

theorem readData_fst (s : State) : (readData s).1 = (slotAt s s.rsel).words[s.rptr.toNat]?.getD 0#32 := by
  unfold readData
  cases (slotAt s s.rsel).words[s.rptr.toNat]? <;> rfl

theorem readCoef_fst (s : State) : (readCoef s).1 =
    if s.fspec.valid && decide (s.fsptr.toNat < s.fspec.taps) then enc (s.fspec.coef.getD s.fsptr.toNat 0) else 0#32 := by
  unfold readCoef
  split <;> rfl

/-- The word a configuration register holds; `none` for any other register. -/
def CfgRegs.word? (c : CfgRegs) : Reg → Option Word
  | .sdrSampleRate => some c.sdrSampleRate
  | .decCarrierFreq => some c.decCarrierFreq
  | .decLineRate => some c.decLineRate
  | .decPixelsPerLine => some c.decPixelsPerLine
  | .decAudioRate => some c.decAudioRate
  | .fltBpLow => some c.fltBpLow
  | .fltBpHigh => some c.fltBpHigh
  | .fltFirTaps => some c.fltFirTaps
  | .fltOrder => some c.fltOrder
  | .agcTarget => some c.agcTarget
  | _ => none

/-- The configuration after a register of it is written. -/
def CfgRegs.write (c : CfgRegs) (w : Word) : Reg → CfgRegs
  | .sdrSampleRate => { c with sdrSampleRate := w }
  | .decCarrierFreq => { c with decCarrierFreq := w }
  | .decLineRate => { c with decLineRate := w }
  | .decPixelsPerLine => { c with decPixelsPerLine := w }
  | .decAudioRate => { c with decAudioRate := w }
  | .fltBpLow => { c with fltBpLow := w }
  | .fltBpHigh => { c with fltBpHigh := w }
  | .fltFirTaps => { c with fltFirTaps := w }
  | .fltOrder => { c with fltOrder := w }
  | .agcTarget => { c with agcTarget := w }
  | _ => c

/-- A read returns the configuration register's word, or looks at no configuration. -/
theorem readReg_setCfg (r : Reg) (c : CfgRegs) (s : State) :
    (readReg r (setCfg c s)).1 = (c.word? r).getD (readReg r s).1 := by
  cases r with
  | rdata => exact (readData_fst _).trans (readData_fst s).symm
  | fsdata => exact (readCoef_fst _).trans (readCoef_fst s).symm
  | _ => rfl

theorem writeReg_of_word? {r : Reg} {s : State} (h : (s.cfg.word? r).isSome) (w : Word) :
    writeReg r w s = .next (setCfg (s.cfg.write w r) s) := by
  cases r <;> simp [CfgRegs.word?] at h <;> rfl

/-- Writing one register of the configuration changes no other. -/
theorem CfgRegs.word?_write (c : CfgRegs) (w : Word) (r r' : Reg) :
    (c.write w r).word? r' = if r' = r then (c.word? r).map fun _ => w else c.word? r' := by
  cases r <;> cases r' <;> rfl

/-- The four low bits of a word, as the register `RSEL` reads them. -/
theorem getLsbD_setWidth_four (w : Word) (i : Nat) :
    ((w.setWidth 4).setWidth 32).getLsbD i = (decide (i < 4) && w.getLsbD i) := by
  rw [BitVec.getLsbD_setWidth, BitVec.getLsbD_setWidth]
  by_cases hi : i < 4
  · simp [hi, show i < 32 by omega]
  · simp [hi]

/-- Settles O48: the write of a configuration register is `setCfg`, which no read but that of the register sees; the
pointers are single fields. -/
theorem configurationRegistersHoldWhatIsWritten : Obligations.ConfigurationRegistersHoldWhatIsWritten := by
  refine ⟨fun r w s hr => ?_, fun w s => ⟨?_, ?_, ?_⟩⟩
  · have hsome : (s.cfg.word? r).isSome := by
      simp only [List.mem_cons, List.not_mem_nil, or_false] at hr
      rcases hr with rfl | rfl | rfl | rfl | rfl | rfl | rfl | rfl | rfl | rfl <;> rfl
    refine ⟨_, (serve_regWrite_index r w s).trans (writeReg_of_word? hsome w), ?_, fun r' hne => ?_, rfl⟩
    · obtain ⟨v, hv⟩ := Option.isSome_iff_exists.mp hsome
      simp [readReg_setCfg, CfgRegs.word?_write, hv]
    · have hsame : (readReg r' s).1 = (s.cfg.word? r').getD (readReg r' s).1 := readReg_setCfg r' s.cfg s
      rw [readReg_setCfg, CfgRegs.word?_write, if_neg hne, ← hsame]
  · exact ⟨_, serve_regWrite_index .rsel w s, BitVec.setWidth_eq_extractLsb' (w := 4) (x := w) (by decide), rfl,
      getLsbD_setWidth_four w, rfl⟩
  · exact ⟨_, serve_regWrite_index .rptr w s, rfl, rfl, rfl⟩
  · exact ⟨_, serve_regWrite_index .fsptr w s, rfl, rfl, rfl⟩

/-! ### Reset (R77) -/

theorem slotAt_resetWith (p : Config.Params) (i : SlotIx) : slotAt (State.resetWith p) i = .empty := by
  have hget : (State.resetWith p).slots[i.toNat] = .empty := Vector.getElem_replicate _
  unfold slotAt
  split
  · exact hget
  · rfl

/-- The reset values do not depend on the parameters or on what the host sends next. -/
theorem atReset_resetWith (p : Config.Params) (inputs : List HostInput) :
    AtReset (setPendingInputs inputs (State.resetWith p)) where
  slots := slotAt_resetWith p
  fsvalid := rfl
  status := (rfl : _ = statusWord State.reset).trans (by decide)
  errinfo := (rfl : _ = errInfoWord State.reset).trans (by decide)
  sdrSampleRate := rfl
  decCarrierFreq := rfl
  decLineRate := rfl
  decPixelsPerLine := rfl
  decAudioRate := rfl
  fltBpLow := rfl
  fltBpHigh := rfl
  fltFirTaps := rfl
  fltCtrl := rfl
  fltOrder := rfl
  agcTarget := rfl
  load := ⟨rfl, rfl, rfl⟩
  pointers := ⟨rfl, rfl, rfl⟩

/-- Settles O46: the reset state has the invariant for all admissible parameters, and the reference ones are admissible. -/
theorem invariantHoldsAtReset : Obligations.InvariantHoldsAtReset :=
  ⟨fun _ hp => inv_resetWith hp, inv_resetWith (by decide)⟩

/-- Settles O47: serving the reset leaves `State.resetWith` of the block's parameters, with the inputs still to come. -/
theorem resetGivesTheListedValues : Obligations.ResetGivesTheListedValues := by
  refine ⟨atReset_resetWith Config.reference [], fun s rest hp => ?_⟩
  have hstep : step s = .next (setPendingInputs rest (State.resetWith s.par)) := by rw [step, hp]; rfl
  exact ⟨_, hstep, atReset_resetWith s.par rest, rfl⟩

/-! ### `STATUS` and `ERRINFO` (R58, R59) -/

/-- A bit of the ten joined fields of `STATUS`. -/
theorem statusFields_getLsbD (valid openV degen sticky : Bool) (err : BitVec 3) {i : Nat} (hi : i < 32) :
    (0#15 ++ BitVec.ofBool valid ++ 0#3 ++ BitVec.ofBool openV ++ 0#3 ++ BitVec.ofBool degen ++ 0#3
      ++ BitVec.ofBool sticky ++ 0#1 ++ err).getLsbD i =
    (if i < 3 then err.getLsbD i else if i = 4 then sticky else if i = 8 then degen
      else if i = 12 then openV else if i = 16 then valid else false) := by
  simp only [BitVec.getLsbD_append, BitVec.getLsbD_ofBool, BitVec.getLsbD_zero]
  interval_cases i <;> simp

/-- A bit of the five joined fields of `ERRINFO`. -/
theorem errInfoFields_getLsbD (reason opc : BitVec 8) (stage : BitVec 4) (i : Nat) :
    (0#8 ++ reason ++ 0#4 ++ stage ++ opc).getLsbD i =
    (if i < 8 then opc.getLsbD i else if 8 ≤ i ∧ i < 12 then stage.getLsbD (i - 8)
      else if 16 ≤ i ∧ i < 24 then reason.getLsbD (i - 16) else false) := by
  simp only [BitVec.getLsbD_append, BitVec.getLsbD_zero]
  grind

/-- The class of a reason follows from its number (60_exceptions.md R283). -/
theorem Reason.errClass_eq (r : Reason) : r.errClass =
    if r.code.toNat = 0 then .ok else if r.code.toNat < 16 then .configuration
    else if r.code.toNat < 24 then .insufficientData else if r.code.toNat < 32 then .numericRange
    else if r.code.toNat < 40 then .illegalCommand else .capacity := by cases r <;> rfl

/-- Settles O51: the two words field by field, the tables row by row, and the acknowledgement. -/
theorem statusBitsAndTheirClearing : Obligations.StatusBitsAndTheirClearing := by
  refine ⟨fun _ _ => statusFields_getLsbD _ _ _ _ _, fun _ i _ => errInfoFields_getLsbD _ _ _ i, rfl, rfl, rfl, rfl, rfl,
    Reason.errClass_eq, fun s w => ⟨_, serve_regWrite_index .status w s, ?_, ?_, rfl⟩⟩
  · show (s.sticky && !w.getLsbD 4) = _
    cases w.getLsbD 4 <;> simp
  · show (s.degen && !w.getLsbD 8) = _
    cases w.getLsbD 8 <;> simp

/-! ### The filter's views (R74) -/

/-- Bit 31 over a 16-bit field is their sum. -/
theorem bit31_append_toNat (t : BitVec 16) : (1#1 ++ 0#15 ++ t).toNat = 0x80000000 + t.toNat := by
  rw [BitVec.toNat_append, ← Nat.shiftLeft_add_eq_or_of_lt t.isLt]
  rfl

theorem filterInfoWord_valid {f : FilterSpec} (hv : f.valid = true) (ht : f.taps < 2 ^ 16) :
    filterInfoWord f = 0x80000000#32 + BitVec.ofNat 32 f.taps := by
  rw [filterInfoWord, if_pos hv]
  apply BitVec.eq_of_toNat_eq
  refine (bit31_append_toNat _).trans ?_
  simp only [BitVec.toNat_ofNat, BitVec.toNat_add]
  omega

/-- Settles O55: the views and the read of `FSDATA`, each by the condition it tests. -/
theorem filterViewsAndFsdata : Obligations.FilterViewsAndFsdata := by
  refine fun s => ⟨fun hv r hr => ?_, fun hv ht => ?_, fun c hv hlt hc => ?_, fun h => ?_⟩
  · have hfield (v : Rat) : filterFieldWord s.fspec v = 0#32 := by simp [filterFieldWord, hv]
    have hinfo : filterInfoWord s.fspec = 0#32 := by simp [filterInfoWord, hv]
    simp only [List.mem_cons, List.not_mem_nil, or_false] at hr
    rcases hr with rfl | rfl | rfl | rfl | rfl
    · exact hinfo
    · exact hfield _
    · exact hfield _
    · exact hfield _
    · exact congrArg Prod.fst (readCoef_of_not (.inl hv))
  · have hfield (v : Rat) : filterFieldWord s.fspec v = enc v := by simp [filterFieldWord, hv]
    exact ⟨filterInfoWord_valid hv ht, hfield _, hfield _, hfield _⟩
  · have hget : s.fspec.coef.getD s.fsptr.toNat 0 = c := by simp [List.getD, hc]
    rw [serve_regRead_index]
    show Host.Outcome.next (recordRead (readCoef s)) = _
    rw [readCoef_of_lt hv hlt, hget]; rfl
  · rw [serve_regRead_index]
    show Host.Outcome.next (recordRead (readCoef s)) = _
    rw [readCoef_of_not h]; rfl

end Sys2Proof.Machine
end

section
/-! PROOFS. The register port's accesses (20_memory.md R103 to R112): the write to `CMD`, the reserved and the read-only
offsets, what a read leaves unchanged and returns, and the byte order. -/

namespace Sys2Proof.Machine

/-! ### The write to `CMD` (R110, R112) -/

theorem step_of_pending {s : State} {x : HostInput} {rest : List HostInput} (h : s.pending = x :: rest) :
    step s = serve x (setPendingInputs rest s) := by
  rw [step, h]

theorem serveCommand_of_decode {w : Word} {i : Instr} (h : decode w = .ok i) (s : State) : serveCommand w s = exec i s := by
  rw [serveCommand, h]

/-- The command word that is placed is the word itself, before everything else the host sends. -/
theorem withFetchWord_pending (s : State) (w : Word) :
    (s.withFetchWord 32 w.toNat).pending = .regWrite Reg.cmd.index w :: s.pending := by
  simp [State.withFetchWord, Nat.mod_eq_of_lt w.isLt]

theorem step_of_cmdWrite {s : State} {w : Word} {i : Instr} {rest : List HostInput} (hw : decode w = .ok i)
    (hp : s.pending = .regWrite Reg.cmd.index w :: rest) : step s = exec i (setPendingInputs rest s) :=
  calc step s = serve (.regWrite Reg.cmd.index w) (setPendingInputs rest s) := step_of_pending hp
    _ = serveCommand w (setPendingInputs rest s) := serve_regWrite_index .cmd w _
    _ = exec i (setPendingInputs rest s) := serveCommand_of_decode hw _

/-- Settles O6: the word reaches `serveCommand`, which decodes it; `withFetchWord` is such a write, and taking it off the
list gives the state back. -/
theorem stepRunsTheDecodedCommand : Obligations.StepRunsTheDecodedCommand :=
  fun s w _ hw => ⟨fun _ hp => step_of_cmdWrite hw hp, step_of_cmdWrite hw (withFetchWord_pending s w)⟩

/-! ### Reserved offsets and read-only registers (R104) -/

/-- The word indices of the reserved offsets, all 64 indices looked at. -/
theorem atIndex_eq_none_iff (ix : RegIx) : Reg.atIndex ix = none ↔
    (4 * ix.toNat = 0x3C ∨ 4 * ix.toNat = 0x48 ∨ 4 * ix.toNat = 0x4C ∨ 0x88 ≤ 4 * ix.toNat) := by
  revert ix; decide

theorem serve_regWrite_reserved {ix : RegIx} (h : Reg.atIndex ix = none) (w : Word) (s : State) :
    serve (.regWrite ix w) s = .next s := by
  simp [serve, serveWrite, h]

theorem serve_regRead_reserved {ix : RegIx} (h : Reg.atIndex ix = none) (s : State) :
    serve (.regRead ix) s = .next { s with readBack := s.readBack ++ [0#32] } := by
  simp [serve, serveRead, recordRead, h]

theorem writeReg_of_readOnly {r : Reg} (h : r.access = .ro) (w : Word) (s : State) : writeReg r w s = .next s := by
  cases r <;> cases h <;> rfl

/-- Settles O49: the map of the offsets, and the port's answer at one that no register has. -/
theorem reservedAndReadOnlyOffsetsIgnoreWrites : Obligations.ReservedAndReadOnlyOffsetsIgnoreWrites :=
  ⟨atIndex_eq_none_iff, fun _ w s h => ⟨serve_regWrite_reserved h w s, serve_regRead_reserved h s⟩,
    fun r w s h => (serve_regWrite_index r w s).trans (writeReg_of_readOnly h w s)⟩

/-! ### What a read leaves unchanged (R109) -/

theorem readData_snd_cases (s : State) : (readData s).2 = s ∨ (readData s).2 = { s with rptr := s.rptr + 1#32 } := by
  unfold readData
  split
  · exact .inr rfl
  · exact .inl rfl

theorem readCoef_snd_cases (s : State) : (readCoef s).2 = s ∨ (readCoef s).2 = { s with fsptr := s.fsptr + 1#32 } := by
  unfold readCoef
  split
  · exact .inr rfl
  · exact .inl rfl

/-- What a read can leave: the state as it was, or, of the two ports, the next pointer. -/
theorem readReg_snd_cases (r : Reg) (s : State) : (readReg r s).2 = s
    ∨ (r = .rdata ∧ (readReg r s).2 = { s with rptr := s.rptr + 1#32 })
    ∨ (r = .fsdata ∧ (readReg r s).2 = { s with fsptr := s.fsptr + 1#32 }) := by
  cases r with
  | rdata => exact (readData_snd_cases s).imp_right fun h => .inl ⟨rfl, h⟩
  | fsdata => exact (readCoef_snd_cases s).imp_right fun h => .inr ⟨rfl, h⟩
  | _ => exact .inl rfl

/-- The state after a read, with its word in the read-back. -/
theorem recordRead_readReg (r : Reg) (s : State) :
    (recordRead (readReg r s)).readBack = s.readBack ++ [(readReg r s).1]
    ∧ { recordRead (readReg r s) with readBack := s.readBack, rptr := s.rptr, fsptr := s.fsptr } = s
    ∧ (r ≠ .rdata → (recordRead (readReg r s)).rptr = s.rptr) ∧ (r ≠ .fsdata → (recordRead (readReg r s)).fsptr = s.fsptr) := by
  rw [recordRead]
  rcases readReg_snd_cases r s with h | ⟨hr, h⟩ | ⟨hr, h⟩ <;> rw [h]
  · exact ⟨rfl, rfl, fun _ => rfl, fun _ => rfl⟩
  · exact ⟨rfl, rfl, fun hne => absurd hr hne, fun _ => rfl⟩
  · exact ⟨rfl, rfl, fun _ => rfl, fun hne => absurd hr hne⟩

theorem readReg_of_writeOnly {r : Reg} (h : r.access = .wo) (s : State) : (readReg r s).1 = 0#32 := by
  cases r <;> cases h <;> rfl

/-! ### What the views return (R71, R73) -/

/-- Two fields side by side: the upper one counts in units of the lower one's size. -/
theorem toNat_append_eq_add {m n : Nat} (x : BitVec m) (y : BitVec n) : (x ++ y).toNat = x.toNat * 2 ^ n + y.toNat := by
  rw [BitVec.toNat_append, ← Nat.shiftLeft_add_eq_or_of_lt y.isLt, Nat.shiftLeft_eq]

theorem infoWord_toNat (x : Slot) :
    x.infoWord.toNat = x.stateCode.toNat + 16 * x.kindField.toNat + 256 * x.chanField.toNat := by
  simp only [Slot.infoWord, toNat_append_eq_add, BitVec.toNat_zero]
  omega

theorem kindCode_toNat (k : SigKind) : (kindCode k).toNat = if k = .complex then 1 else 0 := by cases k <;> rfl

theorem ofNat_toNat_of_lt {n : Nat} (h : n < 2 ^ 32) : (BitVec.ofNat 32 n).toNat = n := by
  rw [BitVec.toNat_ofNat, Nat.mod_eq_of_lt h]

/-- A bit of the four joined fields of `OPENINFO`. -/
theorem openInfoFields_getLsbD (openV pending : Bool) (slot : SlotIx) {i : Nat} (hi : i < 32) :
    (BitVec.ofBool openV ++ BitVec.ofBool pending ++ 0#26 ++ slot).getLsbD i =
    (if i < 4 then slot.getLsbD i else if i = 30 then pending else if i = 31 then openV else false) := by
  simp only [BitVec.getLsbD_append, BitVec.getLsbD_ofBool, BitVec.getLsbD_zero]
  interval_cases i <;> simp

theorem openInfoWord_getLsbD (s : State) {i : Nat} (hi : i < 32) : (openInfoWord s).getLsbD i =
    (if i < 4 then s.openV && s.openSlot.getLsbD i else if i = 30 then s.wpend.isSome else if i = 31 then s.openV else false) := by
  rw [openInfoWord, openInfoFields_getLsbD _ _ _ hi]
  cases s.openV <;> simp

/-- What the views of a slot show of a signal, whether it is being loaded or complete. -/
theorem signalViews {x : Slot} {b : Signal} (h : x = .opened b ∨ x = .valid (.signal b)) :
    x.infoWord.toNat = (if x = .opened b then 1 else 2) + 16 * (if b.data.kind = .complex then 1 else 0) + 256 * b.chan.toNat
    ∧ x.lenWord = BitVec.ofNat 32 b.data.length ∧ x.rateWord = enc b.rate ∧ x.rowsWord = 0#32 ∧ x.widthWord = 0#32 := by
  refine ⟨?_, ?_⟩
  · rw [infoWord_toNat, ← kindCode_toNat]
    rcases h with rfl | rfl
    · rw [if_pos rfl]; rfl
    · rw [if_neg nofun]; rfl
  · rcases h with rfl | rfl <;> exact ⟨rfl, rfl, rfl, rfl⟩

/-- The views of an EMPTY slot read 0. -/
theorem emptyViews {s : State} (h : slotAt s s.rsel = .empty) {r : Reg} (hr : r ∈ [Reg.rinfo, .rlen, .rrate, .rrows, .rwidth]) :
    (readReg r s).1 = 0#32 := by
  simp only [List.mem_cons, List.not_mem_nil, or_false] at hr
  rcases hr with rfl | rfl | rfl | rfl | rfl <;> simp only [readReg, h] <;> rfl

/-- Settles O50: the frame of `readReg` carried through the read-back, and the views field by field. -/
theorem readsOnlyAdvanceTheirPointer : Obligations.ReadsOnlyAdvanceTheirPointer := by
  refine ⟨fun r s => ?_, fun s => ⟨rfl, rfl, rfl, rfl, ?_, fun i => openInfoWord_getLsbD s, fun h r => emptyViews h,
    fun b h => ?_, fun im h => ?_⟩⟩
  · obtain ⟨hword, hframe, hrptr, hfsptr⟩ := recordRead_readReg r s
    exact ⟨_, _, serve_regRead_index r s, hword, rfl, fun h => readReg_of_writeOnly h s, hframe, hrptr, hfsptr⟩
  · exact BitVec.toNat_setWidth_of_le (by decide)
  · obtain ⟨hinfo, hlen, hrate, hrows, hwidth⟩ := signalViews h
    exact ⟨hinfo, fun hlt => (congrArg BitVec.toNat hlen).trans (ofNat_toNat_of_lt hlt), hrate, hrows, hwidth⟩
  · simp only [readReg, h]
    exact ⟨BitVec.eq_of_toNat_eq (infoWord_toNat _), rfl, ofNat_toNat_of_lt, ofNat_toNat_of_lt, ofNat_toNat_of_lt⟩

/-! ### The byte order (R106) -/

theorem wordByte_getLsbD (w : Word) (i : Nat) {j : Nat} (hj : j < 8) : (wordByte w i).getLsbD j = w.getLsbD (8 * i + j) := by
  simp [wordByte, hj]

/-- The bytes of a word, lowest first, are the word again. -/
theorem wordOfBytes_wordByte (w : Word) : wordOfBytes (wordByte w 0) (wordByte w 1) (wordByte w 2) (wordByte w 3) = w := by
  rw [wordOfBytes, wordByte, wordByte, wordByte, wordByte, BitVec.extractLsb'_append_extractLsb'_eq_extractLsb',
    BitVec.extractLsb'_append_extractLsb'_eq_extractLsb', BitVec.extractLsb'_append_extractLsb'_eq_extractLsb']
  · exact BitVec.extractLsb'_eq_self
  all_goals rfl

theorem fileWords_flatMap_wordByte (ws : List Word) :
    fileWords (ws.flatMap fun w => [wordByte w 0, wordByte w 1, wordByte w 2, wordByte w 3]) = ws := by
  induction ws with
  | nil => rfl
  | cons w ws ih =>
    simp only [List.flatMap_cons, List.cons_append, List.nil_append, fileWords, wordOfBytes_wordByte, ih]

/-- Settles O60: bits of a byte, the file by induction on its words, and the example. -/
theorem bytesAreLittleEndian : Obligations.BytesAreLittleEndian :=
  ⟨fun w i _ _ hj => wordByte_getLsbD w i hj, fileWords_flatMap_wordByte, by decide, by decide +kernel⟩

end Sys2Proof.Machine
end

section
/-! PROOFS. The command word (30_encoding.md R141 to R150): its fields, its row, and the decoder against the encoder. -/

namespace Sys2Proof

/-! ### The fields of a word (R141) -/

section Fields
variable (o : Opcode) (d a b : SlotIx) (imm : BitVec 12)

@[simp] theorem dstField_commandWord : dstField (commandWord o d a b imm) = d := by
  rw [dstField, commandWord, BitVec.extractLsb'_append_eq_of_le (by decide), BitVec.extractLsb'_append_eq_of_le (by decide),
    BitVec.extractLsb'_append_eq_of_le (by decide), BitVec.extractLsb'_append_eq_right]

@[simp] theorem srcaField_commandWord : srcaField (commandWord o d a b imm) = a := by
  rw [srcaField, commandWord, BitVec.extractLsb'_append_eq_of_le (by decide), BitVec.extractLsb'_append_eq_of_le (by decide),
    BitVec.extractLsb'_append_eq_right]

@[simp] theorem srcbField_commandWord : srcbField (commandWord o d a b imm) = b := by
  rw [srcbField, commandWord, BitVec.extractLsb'_append_eq_of_le (by decide), BitVec.extractLsb'_append_eq_right]

@[simp] theorem immField_commandWord : immField (commandWord o d a b imm) = imm := BitVec.extractLsb'_append_eq_right

end Fields

/-- The five fields cover the word: nothing of it lies between them. -/
theorem fields_append_eq_self (w : Word) : opcField w ++ dstField w ++ srcaField w ++ srcbField w ++ immField w = w := by
  rw [opcField, dstField, srcaField, srcbField, immField,
    BitVec.extractLsb'_append_extractLsb'_eq_extractLsb', BitVec.extractLsb'_append_extractLsb'_eq_extractLsb',
    BitVec.extractLsb'_append_extractLsb'_eq_extractLsb', BitVec.extractLsb'_append_extractLsb'_eq_extractLsb']
  · exact BitVec.extractLsb'_eq_self
  all_goals rfl

theorem commandWord_eq_of_fields {o : Opcode} {d a b : SlotIx} {imm : BitVec 12} {w : Word} (hc : opcField w = o.code)
    (hd : dstField w = d) (ha : srcaField w = a) (hb : srcbField w = b) (hi : immField w = imm) :
    commandWord o d a b imm = w := by
  rw [commandWord, ← hc, ← hd, ← ha, ← hb, ← hi, fields_append_eq_self]

/-! ### The immediates and the must-be-zero bits (R142, R143) -/

@[simp] theorem kindOfBit_bit (k : SigKind) : kindOfBit k.bit = k := by cases k <;> rfl

@[simp] theorem bit_kindOfBit (b : BitVec 1) : (kindOfBit b).bit = b := by revert b; decide

/-- An immediate is read back from the low bits of its field. -/
@[simp] theorem extractLsb'_setWidth_twelve {n : Nat} (x : BitVec n) (hn : n ≤ 12) :
    (x.setWidth 12).extractLsb' 0 n = x := by
  rw [BitVec.extractLsb'_setWidth_of_le (by omega), BitVec.extractLsb'_eq_self]

/-- A field the mask covers is 0. -/
theorem eq_zero_of_mask {n : Nat} {x : BitVec n} (h : x &&& BitVec.allOnes n = 0#n) : x = 0#n :=
  BitVec.and_allOnes.symm.trans h

/-- A field the mask covers from bit `n` up is its low `n` bits. -/
theorem setWidth_extractLsb'_of_mask {n : Nat} {x : BitVec 12} (h : x &&& (BitVec.allOnes 12 <<< n) = 0#12) :
    (x.extractLsb' 0 n).setWidth 12 = x := by
  ext i hi
  have hbit : x[i] = true → i < n := by simpa [hi, -BitVec.reduceAllOnes] using congrArg (·.getLsbD i) h
  simp only [BitVec.getElem_setWidth, BitVec.getLsbD_extractLsb', Nat.zero_add, BitVec.getLsbD_eq_getElem hi]
  cases hx : x[i] with
  | false => exact Bool.and_false _
  | true => simp [hbit hx]

/-! ### The row of a word (R144) -/

theorem ofCode_code (o : Opcode) : Opcode.ofCode o.code = some o := by cases o <;> rfl

theorem ofCode_eq_none {c : BitVec 8} (h : ∀ o : Opcode, o.code ≠ c) : Opcode.ofCode c = none :=
  List.find?_eq_none.mpr fun o _ => by simpa using h o

theorem matchWord_eq_commandWord (o : Opcode) : o.matchWord = commandWord o 0#4 0#4 0#4 0#12 := Laws.matchWord_eq o

/-- Every row's mask covers the operation code. -/
theorem opcField_mask (o : Opcode) : opcField o.mask = BitVec.allOnes 8 := by cases o <;> rfl

/-- A word in a row has the row's operation code, and every field is 0 where the mask covers it. -/
theorem fields_of_row {w : Word} {o : Opcode} (h : w &&& o.mask = o.matchWord) :
    opcField w = o.code ∧ dstField w &&& dstField o.mask = 0#4 ∧ srcaField w &&& srcaField o.mask = 0#4
      ∧ srcbField w &&& srcbField o.mask = 0#4 ∧ immField w &&& immField o.mask = 0#12 := by
  have field (start len : Nat) : w.extractLsb' start len &&& o.mask.extractLsb' start len
      = (commandWord o 0#4 0#4 0#4 0#12).extractLsb' start len := by
    rw [← BitVec.extractLsb'_and, h, matchWord_eq_commandWord]
  refine ⟨?_, (field 20 4).trans (dstField_commandWord ..), (field 16 4).trans (srcaField_commandWord ..),
    (field 12 4).trans (srcbField_commandWord ..), (field 0 12).trans (immField_commandWord ..)⟩
  calc opcField w = opcField w &&& opcField o.mask := by rw [opcField_mask, BitVec.and_allOnes]
    _ = o.code := (field 24 8).trans (Laws.opcField_commandWord ..)

/-- The word of every command lies in the command's row. -/
theorem encode_in_row (i : Instr) : encode i &&& i.op.mask = i.op.matchWord := by
  have hrow : Laws.EncodesInRow.Statement i := by
    cases i with
    | nop => exact Laws.EncodesInRow.nop
    | bopen d k => exact Laws.EncodesInRow.bopen d k
    | bclose => exact Laws.EncodesInRow.bclose
    | bfree d => exact Laws.EncodesInRow.bfree d
    | demod d a => exact Laws.EncodesInRow.demod d a
    | dcrem d a => exact Laws.EncodesInRow.dcrem d a
    | decim d a => exact Laws.EncodesInRow.decim d a
    | resamp d a => exact Laws.EncodesInRow.resamp d a
    | bpdesign a => exact Laws.EncodesInRow.bpdesign a
    | bpapply d a => exact Laws.EncodesInRow.bpapply d a
    | agc d a => exact Laws.EncodesInRow.agc d a
    | extract d a ch => exact Laws.EncodesInRow.extract d a ch
    | formimg d a c => exact Laws.EncodesInRow.formimg d a c
    | combine d a b => exact Laws.EncodesInRow.combine d a b
  exact hrow.1

/-! ### The decoder (R145) -/

theorem decode_of_code_ne {w : Word} (h : ∀ o : Opcode, o.code ≠ opcField w) : decode w = .error .reservedOpcode := by
  rw [decode, ofCode_eq_none h]

theorem decode_of_mask_ne {w : Word} {o : Opcode} (hc : o.code = opcField w) (h : w &&& o.mask ≠ o.matchWord) :
    decode w = .error .reservedField := by
  rw [decode, ← hc, ofCode_code]
  exact if_neg h

theorem decode_of_row {w : Word} {o : Opcode} (h : w &&& o.mask = o.matchWord) :
    decode w = if (o.operands w).wf then .ok (o.operands w) else .error .reservedField := by
  obtain ⟨hc, -⟩ := fields_of_row h
  rw [decode, hc, ofCode_code]
  exact if_pos h

@[simp] theorem operands_op (o : Opcode) (w : Word) : (o.operands w).op = o := by cases o <;> rfl

/-- The one check beyond the row: the channel count of `FORMIMG`, which is the word's low four bits. -/
theorem operands_wf_iff (o : Opcode) (w : Word) :
    (o.operands w).wf = true ↔ (o = .formimg → w.extractLsb' 0 4 ≠ 0#4) := by
  cases o with
  | formimg => simp [Opcode.operands, Instr.wf, immField, BitVec.extractLsb'_extractLsb'_of_le]
  | _ => simp [Opcode.operands, Instr.wf]

/-- A word decodes to a command exactly when it lies in the command's row and its operands are the command, well formed. -/
theorem decode_eq_ok_iff {w : Word} {i : Instr} :
    decode w = .ok i ↔ w &&& i.op.mask = i.op.matchWord ∧ i.op.operands w = i ∧ i.wf = true := by
  constructor
  · intro h
    by_cases hrow : ∃ o : Opcode, w &&& o.mask = o.matchWord
    · obtain ⟨o, ho⟩ := hrow
      rw [decode_of_row ho] at h
      split at h
      next hwf =>
        obtain rfl := Except.ok.inj h
        rw [operands_op]
        exact ⟨ho, rfl, hwf⟩
      next => cases h
    · by_cases hc : ∃ o : Opcode, o.code = opcField w
      · obtain ⟨o, ho⟩ := hc
        rw [decode_of_mask_ne ho (not_exists.mp hrow o)] at h
        cases h
      · rw [decode_of_code_ne (not_exists.mp hc)] at h
        cases h
  · rintro ⟨hrow, hi, hwf⟩
    rw [decode_of_row hrow, hi, if_pos hwf]

/-! ### Encoding and decoding -/

/-- The operands of a command are read back from its word. -/
theorem operands_encode (i : Instr) : i.op.operands (encode i) = i := by
  cases i <;> simp [Opcode.operands, Instr.op, encode]

/-- The operands of a word in a row say all of the word: each of its fields is an operand, or must be 0. -/
theorem encode_operands {w : Word} {o : Opcode} (h : w &&& o.mask = o.matchWord) : encode (o.operands w) = w := by
  obtain ⟨hc, hd, ha, hb, hi⟩ := fields_of_row h
  cases o with
  | nop | bclose =>
    exact commandWord_eq_of_fields hc (eq_zero_of_mask hd) (eq_zero_of_mask ha) (eq_zero_of_mask hb) (eq_zero_of_mask hi)
  | bopen =>
    rw [Opcode.operands, encode, bit_kindOfBit]
    exact commandWord_eq_of_fields hc rfl (eq_zero_of_mask ha) (eq_zero_of_mask hb) (setWidth_extractLsb'_of_mask hi).symm
  | bfree => exact commandWord_eq_of_fields hc rfl (eq_zero_of_mask ha) (eq_zero_of_mask hb) (eq_zero_of_mask hi)
  | demod | dcrem | decim | resamp | bpapply | agc =>
    exact commandWord_eq_of_fields hc rfl rfl (eq_zero_of_mask hb) (eq_zero_of_mask hi)
  | bpdesign => exact commandWord_eq_of_fields hc (eq_zero_of_mask hd) rfl (eq_zero_of_mask hb) (eq_zero_of_mask hi)
  | extract | formimg =>
    exact commandWord_eq_of_fields hc rfl rfl (eq_zero_of_mask hb) (setWidth_extractLsb'_of_mask hi).symm
  | combine => exact commandWord_eq_of_fields hc rfl rfl rfl (eq_zero_of_mask hi)

/-- Settles O1: the word lies in the command's row, and its operands are the command. -/
theorem decodeOfEncodeIsTheCommand : Obligations.DecodeOfEncodeIsTheCommand :=
  fun i hwf => decode_eq_ok_iff.mpr ⟨encode_in_row i, operands_encode i, hwf⟩

/-- Settles O2: the command is the operands of a word in its row, and those say all of the word. -/
theorem encodeOfDecodeIsTheWord : Obligations.EncodeOfDecodeIsTheWord := by
  intro w i h
  obtain ⟨hrow, hi, hwf⟩ := decode_eq_ok_iff.mp h
  refine ⟨hwf, ?_⟩
  calc encode i = encode (i.op.operands w) := by rw [hi]
    _ = w := encode_operands hrow

/-- Settles O3: a word in a row decodes to its operands, unless they are not well formed. -/
theorem decodesExactlyTheTableRows : Obligations.DecodesExactlyTheTableRows := by
  intro w o
  rw [← operands_wf_iff]
  constructor
  · rintro ⟨i, h, rfl⟩
    obtain ⟨hrow, hi, hwf⟩ := decode_eq_ok_iff.mp h
    exact ⟨hrow, by rwa [hi]⟩
  · rintro ⟨hrow, hwf⟩
    exact ⟨o.operands w, by rw [decode_of_row hrow, if_pos hwf], operands_op o w⟩

/-- Settles O4: the decoder's three refusals, the third by the check on the channel count. -/
theorem undecodableWordsAreNamedByRule : Obligations.UndecodableWordsAreNamedByRule := by
  refine fun w => ⟨decode_of_code_ne, fun o => decode_of_mask_ne, fun hrow hzero => ?_⟩
  rw [decode_of_row hrow, if_neg fun hwf => (operands_wf_iff .formimg w).mp hwf rfl hzero]

/-- Settles O5: the encodings by evaluation, the way back by O1, and the two refused words by O4. -/
theorem workedEncodingsDecode : Obligations.WorkedEncodingsDecode := by
  refine ⟨fun p hp => ?_, decode_of_mask_ne (o := .demod) rfl (by decide),
    decode_of_code_ne fun o => by cases o <;> decide⟩
  have h : encode p.1 = p.2 ∧ p.1.wf = true := by
    revert p
    decide
  exact ⟨h.1, h.1 ▸ decodeOfEncodeIsTheCommand p.1 h.2⟩

end Sys2Proof

namespace Sys2Proof.Machine

/-! ### A slot that does not exist (R141, R145) -/

theorem slotsExist_eq_false_iff (i : Instr) (n : Nat) :
    i.slotsExist n = false ↔ ∃ x ∈ i.slotFields, n ≤ x.toNat := by
  simp [Instr.slotsExist]

/-- A command one of whose slots does not exist fails in decoding, whatever its rule. -/
theorem runCommand_badSlot {i : Instr} {s : State} {body : Except Failure State} (h : i.slotsExist s.par.nslot = false) :
    runCommand i s body = .next (takeDecodeFailure i.op.code .badSlot s) := by simp [runCommand, h]

/-- Settles O8: `runCommand` looks at the slot fields before the command's own rule. -/
theorem badSlotFailsInDecode : Obligations.BadSlotFailsInDecode := by
  intro i s hbad
  have hslots : i.slotsExist s.par.nslot = false := (slotsExist_eq_false_iff i _).mpr hbad
  exact ⟨takeDecodeFailure i.op.code .badSlot s, (exec_eq_runCommand_rule i s).trans (runCommand_badSlot hslots), rfl⟩

end Sys2Proof.Machine
end

section
/-! PROOFS. The buffer commands NOP, BOPEN, BCLOSE and BFREE (40_buffer_commands.md R171 to R174): what the rule of each
answers, case by case, and the effects of its success. -/

namespace Sys2Proof.Machine

open Sys2Proof.Safety

/-! ### The slots a buffer command names -/

/-- A command that uses one slot field, naming a slot that exists. -/
theorem slotsExist_of_slotFields {i : Instr} {d : SlotIx} {n : Nat} (hi : i.slotFields = [d]) (hd : d.toNat < n) :
    i.slotsExist n = true := by
  simpa [Instr.slotsExist, hi] using hd

/-! ### From the answer of a rule to the outcome of its command -/

section Outcome
variable {i : Instr} {s : State} {g : State → State}

theorem exec_of_rule_eq_ok {u : State} (hs : i.slotsExist s.par.nslot = true) (h : rule i s = .ok u) :
    exec i s = .next (recordSuccess u) := by
  rw [exec_eq_runCommand_rule, h, runCommand_ok hs]

/-- A command whose rule fails has exactly the effects of that failure (60_exceptions.md R284 (b)). -/
theorem exec_fails_of_rule_eq_failAt {stage : Stage} {reason : Reason} (hs : i.slotsExist s.par.nslot = true)
    (h : rule i s = failAt stage reason) : ∃ t, exec i s = .next t ∧ Fails i stage reason s t := by
  refine ⟨_, ?_, takeFailure_fails i { stage := stage, reason := reason } s⟩
  rw [exec_eq_runCommand_rule, h, failAt, runCommand_error hs]

/-- The status, the filter and the rest after a command has succeeded with an update that concerns only the slots and the
load port. -/
theorem Update.success_frame (h : Update s i g) (hfilter : i.designsFilter = false)
    (himage : ¬ ∃ d a c, i = .formimg d a c) :
    (recordSuccess (g s)).err = .ok ∧ (recordSuccess (g s)).sticky = s.sticky
      ∧ (recordSuccess (g s)).errInfo = s.errInfo ∧ (recordSuccess (g s)).degen = s.degen
      ∧ (recordSuccess (g s)).fspec = s.fspec ∧ SameRest s (recordSuccess (g s)) := by
  obtain ⟨hsticky, hinfo⟩ := h.flags
  have hdegen : (g s).degen = s.degen := h.degen.resolve_right fun hi => himage hi.2
  exact ⟨rfl, hsticky, hinfo, hdegen, h.fspec hfilter, { h.rest with }⟩

end Outcome

/-! ### `NOP` (R171) -/

/-- Settles O10: the word is the encoding of `NOP`, whose rule answers the state itself. -/
theorem nopOnlyClearsErr : Obligations.NopOnlyClearsErr :=
  ⟨decodeOfEncodeIsTheCommand .nop rfl, fun _ => exec_of_rule_eq_ok rfl rfl⟩

/-! ### `BOPEN` (R172) -/

section Bopen
variable {d : SlotIx} {k : SigKind} {s : State} {r : Rat}

@[simp] theorem emptySamples_kind (k : SigKind) : (emptySamples k).kind = k := by cases k <;> rfl

@[simp] theorem emptySamples_length (k : SigKind) : (emptySamples k).length = 0 := by cases k <;> rfl

@[simp] theorem failAt_map {α β : Type} (f : α → β) (g : Stage) (r : Reason) :
    (f <$> failAt g r : Except Failure β) = failAt g r := rfl

theorem cfgFloat_of_nonfinite {g : Stage} {w : Word} (h : dec w = none) : cfgFloat g w = failAt g .cfgNonfinite := by
  rw [cfgFloat, h]

theorem bopenBody_of_open (hV : s.openV = true) : bopenBody d k s = failAt .buffer .slotState := by
  simp [bopenBody, hV]

theorem bopenBody_of_nonfinite (hV : s.openV = false) (hr : dec s.cfg.sdrSampleRate = none) :
    bopenBody d k s = failAt .buffer .cfgNonfinite := by
  simp [bopenBody, hV, cfgFloat_of_nonfinite hr]

theorem bopenBody_of_nonpos (hV : s.openV = false) (hr : dec s.cfg.sdrSampleRate = some r) (hnonpos : r ≤ 0) :
    bopenBody d k s = failAt .buffer .rateNonpos := by
  simp [bopenBody, hV, (cfgFloat_eq_ok_iff _ _ _).mpr hr, hnonpos]

theorem bopenBody_of_pos (hV : s.openV = false) (hr : dec s.cfg.sdrSampleRate = some r) (hpos : 0 < r) :
    bopenBody d k s = .ok (claimLoad d (setSlot d (.opened { rate := r, chan := 0#2, data := emptySamples k }) s)) := by
  simp [bopenBody, hV, (cfgFloat_eq_ok_iff _ _ _).mpr hr, not_le.mpr hpos, pure, Except.pure]

end Bopen

/-- Settles O11: the three checks pass, and the update opens the slot and claims the load port. -/
theorem bopenOpensAnEmptySlot : Obligations.BopenOpensAnEmptySlot := by
  intro d k s r hd hV hr hpos
  have hup := Update.opens (s := s) d k { rate := r, chan := 0#2, data := emptySamples k }
  exact ⟨_, _, exec_of_rule_eq_ok (slotsExist_of_slotFields rfl hd) (bopenBody_of_pos hV hr hpos),
    slotAt_setSlot_self _ hd, rfl, rfl, emptySamples_kind k, emptySamples_length k,
    fun _ hj => hup.others hj (by simp), rfl, rfl, rfl, hup.success_frame rfl (by simp)⟩

/-! ### `BCLOSE` (R173) -/

section Bclose
variable {s : State} {b : Signal}

theorem openBuffer_of_closed (hV : s.openV = false) : openBuffer s = none := by simp [openBuffer, hV]

theorem bcloseBody_of_closed (hV : s.openV = false) : bcloseBody s = failAt .buffer .slotState := by
  rw [bcloseBody, openBuffer_of_closed hV]

theorem bcloseBody_of_pending (hb : openBuffer s = some b) (hw : s.wpend ≠ none) :
    bcloseBody s = failAt .buffer .oddWords := by
  simp [bcloseBody, hb, Option.isSome_iff_ne_none, hw]

theorem bcloseBody_of_complete (hb : openBuffer s = some b) (hw : s.wpend = none) :
    bcloseBody s = .ok (writeSlot s.openSlot (.valid (.signal b)) s) := by
  obtain ⟨hV, -⟩ := (openBuffer_eq_some_iff s b).mp hb
  simp [bcloseBody, hb, hw, releaseLoad_setSlot_openSlot hV]

/-- Whatever is written to the OPEN slot, the load port is released (R179). -/
theorem writeSlot_openSlot_released (hV : s.openV = true) (v : Slot) :
    (writeSlot s.openSlot v s).openV = false ∧ (writeSlot s.openSlot v s).openSlot = 0#4
      ∧ (writeSlot s.openSlot v s).wpend = none := by
  rw [← releaseLoad_setSlot_openSlot hV]
  exact ⟨rfl, rfl, rfl⟩

end Bclose

/-- Settles O12: both checks pass, and completing the OPEN slot is a write to it, which releases the load port. -/
theorem bcloseMakesTheLoadValid : Obligations.BcloseMakesTheLoadValid := by
  intro s b hV hslot hw
  have hb : openBuffer s = some b := (openBuffer_eq_some_iff s b).mpr ⟨hV, hslot⟩
  have hup := Update.closes (.signal b) hV
  have hlt : s.openSlot.toNat < s.par.nslot := lt_nslot_of_slotAt_ne (by simp [hslot])
  obtain ⟨hV', hO', hw'⟩ := writeSlot_openSlot_released hV (.valid (.signal b))
  exact ⟨_, exec_of_rule_eq_ok rfl (bcloseBody_of_complete hb hw), slotAt_writeSlot_self _ hlt,
    fun _ hj => slotAt_writeSlot_ne _ s fun h => hj (congrArg some h), hV', hO', hw', hup.success_frame rfl (by simp)⟩

/-- Settles O13: the checks of the two rules one by one. `BCLOSE` has no destination, so its failure leaves every slot and
the load port. -/
theorem loadCommandsCheckInOrder : Obligations.LoadCommandsCheckInOrder := by
  refine ⟨fun d k s hd => ?_, fun s => ⟨fun hV => ?_, fun b hV hslot hw => ?_⟩⟩
  · have hs : (Instr.bopen d k).slotsExist s.par.nslot = true := slotsExist_of_slotFields rfl hd
    exact ⟨fun hV => exec_fails_of_rule_eq_failAt hs (bopenBody_of_open hV),
      fun hV hr => exec_fails_of_rule_eq_failAt hs (bopenBody_of_nonfinite hV hr),
      fun r hV hr hnonpos => exec_fails_of_rule_eq_failAt hs (bopenBody_of_nonpos hV hr hnonpos)⟩
  · exact exec_fails_of_rule_eq_failAt rfl (bcloseBody_of_closed hV)
  · have hb : openBuffer s = some b := (openBuffer_eq_some_iff s b).mpr ⟨hV, hslot⟩
    obtain ⟨t, ht, hfails⟩ := exec_fails_of_rule_eq_failAt (i := .bclose) rfl (bcloseBody_of_pending hb hw)
    obtain ⟨hV', -, hw'⟩ : t.openV = s.openV ∧ t.openSlot = s.openSlot ∧ t.wpend = s.wpend := by
      simpa [LoadAfter, Instr.dst] using hfails.load
    exact ⟨t, ht, hfails, (hfails.others _ (by simp [Instr.dst])).trans hslot, hV'.trans hV, hw'⟩

/-! ### `BFREE` (R174) -/

theorem encode_bfree (d : SlotIx) : encode (.bfree d) = 0x03000000#32 + (d.setWidth 32 <<< 20) := by
  revert d; decide

/-- Settles O14: the rule has no check, and emptying a slot is a write to it, which abandons a load in it. -/
theorem bfreeEmptiesTheSlot : Obligations.BfreeEmptiesTheSlot := by
  intro d s hd
  have hup := Update.stores (s := s) (.bfree d) d .empty rfl
  exact ⟨encode_bfree d, _, exec_of_rule_eq_ok (slotsExist_of_slotFields rfl hd) rfl, slotAt_writeSlot_empty_self s d,
    fun _ hj => hup.others hj (by simp), loadAfter_writeSlot d .empty s, hup.success_frame rfl (by simp)⟩

end Sys2Proof.Machine
end

section
/-! PROOFS. The data ports (40_buffer_commands.md R175 to R178): what a `WDATA` write does, check by check, the word view of a
slot, and the read of `RDATA`. -/

namespace Sys2Proof.Machine

open Sys2Proof.Safety

/-! ### The load port (R176) -/

section LoadPort
variable {w : Word} {v : Rat} {b : Signal} {s : State}

theorem writeData_of_closed (hV : s.openV = false) : writeData w s = takePortFailure .portClosed s := by
  rw [writeData, openBuffer_of_closed hV]

theorem writeData_of_nonfinite (hb : openBuffer s = some b) (hw : dec w = none) :
    writeData w s = takePortFailure .nonfiniteInput (abortLoad s) := by
  simp only [writeData, hb, hw]

theorem writeData_of_finite (hb : openBuffer s = some b) (hw : dec w = some v) : writeData w s = appendWord b v s := by
  simp only [writeData, hb, hw]

/-- A REAL load: every word is an element, if there is room for it. -/
theorem appendWord_real {xs : List Rat} (hx : b.data = .real xs) : appendWord b v s =
    if s.par.maxlen ≤ xs.length then takePortFailure .capacity (abortLoad s)
    else storeLoad { b with data := .real (xs ++ [v]) } s.wpend s := by
  simp only [appendWord, hx]

/-- A COMPLEX load, first word of an element: it waits for the second, if there is room for the element. -/
theorem appendWord_inPhase {zs : List (Rat × Rat)} (hz : b.data = .complex zs) (hp : s.wpend = none) : appendWord b v s =
    if s.par.maxlen ≤ zs.length then takePortFailure .capacity (abortLoad s) else setPending (some v) s := by
  simp only [appendWord, hz, hp]

/-- A COMPLEX load, second word of an element: no check is left. -/
theorem appendWord_quadrature {zs : List (Rat × Rat)} {re : Rat} (hz : b.data = .complex zs) (hp : s.wpend = some re) :
    appendWord b v s = storeLoad { b with data := .complex (zs ++ [(re, v)]) } none s := by
  simp only [appendWord, hz, hp]

theorem takePortFailure_abortLoad (r : Reason) (s : State) : LoadAborted r s (takePortFailure r (abortLoad s)) where
  err := rfl
  sticky := rfl
  errInfo := rfl
  emptied := slotAt_setSlot_empty_self s s.openSlot
  others _ hj := slotAt_setSlot_ne _ s fun h => hj (congrArg some h)
  released := ⟨rfl, rfl, rfl⟩
  fspec := rfl
  degen := rfl
  rest := ⟨rfl, rfl, rfl, rfl, rfl, rfl, rfl⟩

theorem storeLoad_grows (hlt : s.openSlot.toNat < s.par.nslot) (b : Signal) (p : Option Rat) :
    LoadGrows b p s (storeLoad b p s) where
  grown := slotAt_setSlot_self _ hlt
  others _ hj := slotAt_setSlot_ne _ s fun h => hj (congrArg some h)
  wpend := rfl
  openV := rfl
  openSlot := rfl
  flags := ⟨rfl, rfl, rfl, rfl⟩
  fspec := rfl
  rest := ⟨rfl, rfl, rfl, rfl, rfl, rfl, rfl⟩

/-- A word that waits for its other half leaves the buffer as it is. -/
theorem setPending_grows (hslot : slotAt s s.openSlot = .opened b) (p : Option Rat) : LoadGrows b p s (setPending p s) where
  grown := hslot
  others _ _ := rfl
  wpend := rfl
  openV := rfl
  openSlot := rfl
  flags := ⟨rfl, rfl, rfl, rfl⟩
  fspec := rfl
  rest := ⟨rfl, rfl, rfl, rfl, rfl, rfl, rfl⟩

theorem serve_wdata (w : Word) (s : State) : serve (.regWrite Reg.wdata.index w) s = .next (writeData w s) :=
  serve_regWrite_index .wdata w s

end LoadPort

/-- Settles O52: the checks in their order, then by the kind of the load and whether a word waits. -/
theorem wdataWriteFollowsItsRule : Obligations.WdataWriteFollowsItsRule := by
  intro w s
  simp only [serve_wdata, Host.Outcome.next.injEq, exists_eq_left']
  refine ⟨fun hV => writeData_of_closed hV, fun b hV hslot => ?_⟩
  have hb : openBuffer s = some b := (openBuffer_eq_some_iff s b).mpr ⟨hV, hslot⟩
  have hlt : s.openSlot.toNat < s.par.nslot := lt_nslot_of_slotAt_ne (by simp [hslot])
  refine ⟨fun hw => ?_, fun v hw => ?_⟩
  · rw [writeData_of_nonfinite hb hw]
    exact takePortFailure_abortLoad _ s
  rw [writeData_of_finite hb hw]
  refine ⟨fun xs hx hp => ?_, fun zs hz => ⟨fun hp hfull => ?_, fun hp hroom => ?_, fun re hp => ?_⟩⟩
  · rw [appendWord_real hx, hp]
    refine ⟨fun hfull => ?_, fun hroom => ?_⟩
    · rw [if_pos hfull]
      exact takePortFailure_abortLoad _ s
    · rw [if_neg (not_le.mpr hroom)]
      exact storeLoad_grows hlt _ none
  · rw [appendWord_inPhase hz hp, if_pos hfull]
    exact takePortFailure_abortLoad _ s
  · rw [appendWord_inPhase hz hp, if_neg (not_le.mpr hroom)]
    exact setPending_grows hslot (some v)
  · rw [appendWord_quadrature hz hp]
    exact storeLoad_grows hlt _ none

/-! ### The word view of a slot (R177) -/

theorem words_of_signal {x : Slot} {b : Signal} (h : x = .opened b ∨ x = .valid (.signal b)) : x.words = b.data.words := by
  rcases h with rfl | rfl <;> rfl

theorem words_complex_length (zs : List (Rat × Rat)) : (Samples.complex zs).words.length = 2 * zs.length := by
  simp [Samples.words, List.length_flatMap, Nat.mul_comm]

/-- Element `n` of COMPLEX data stands at the words `2n` and `2n + 1`. -/
theorem words_complex_getElem? (zs : List (Rat × Rat)) (n : Nat) :
    (Samples.complex zs).words[2 * n]? = zs[n]?.map (fun z => enc z.1)
    ∧ (Samples.complex zs).words[2 * n + 1]? = zs[n]?.map (fun z => enc z.2) := by
  induction zs generalizing n with
  | nil => exact ⟨rfl, rfl⟩
  | cons z zs ih =>
    cases n with
    | zero => exact ⟨rfl, rfl⟩
    | succ n => exact ih n

/-- Settles O53: by the content of the slot; the two words of a COMPLEX element by induction on the data. -/
theorem wordViewOfASlot : Obligations.WordViewOfASlot := by
  intro s i
  refine ⟨fun hge => ?_, fun hempty => ?_, fun b hb => ⟨fun xs hx => ?_, fun zs hz => ?_⟩, fun im him => ?_⟩
  · rw [slotAt_of_ge hge]; rfl
  · rw [hempty]; rfl
  · rw [words_of_signal hb, hx, Samples.words]
    exact ⟨List.length_map enc, fun n x hn => by simp [hn]⟩
  · rw [words_of_signal hb, hz]
    refine ⟨words_complex_length zs, fun n z hn => ?_⟩
    simpa [hn] using words_complex_getElem? zs n
  · rw [him, Slot.words]
    exact ⟨List.length_map _, fun n p hn => by simp [hn]⟩

/-! ### The read port (R178) -/

theorem serve_rdata (s : State) : serve (.regRead Reg.rdata.index) s = .next (recordRead (readData s)) :=
  serve_regRead_index .rdata s

theorem readData_of_some {s : State} {w : Word} (h : (slotAt s s.rsel).words[s.rptr.toNat]? = some w) :
    readData s = (w, { s with rptr := s.rptr + 1#32 }) := by
  simp only [readData, h]

theorem readData_of_length_le {s : State} (h : (slotAt s s.rsel).words.length ≤ s.rptr.toNat) : readData s = (0#32, s) := by
  simp only [readData, List.getElem?_eq_none h]

/-- Settles O54: the two answers of the read, each with its word in the read-back. -/
theorem rdataReturnsTheNextWord : Obligations.RdataReturnsTheNextWord := by
  refine fun s => ⟨fun w hw => ?_, fun hle => ?_⟩
  · rw [serve_rdata, readData_of_some hw]; rfl
  · rw [serve_rdata, readData_of_length_le hle]; rfl

end Sys2Proof.Machine
end

section
/-! PROOFS. `DEMOD` (41_am_envelope_detector.md R190, R191), for both kinds of source at once: it rounds the envelope of its
source and stores it, or fails with the overflow. Before it, what a successful command with one result buffer leaves. -/

namespace Sys2Proof.Machine

open Sys2Proof.Safety

/-! ### A command with one result buffer -/

theorem dst_toNat_lt_of_slotsExist {i : Instr} {d : SlotIx} {n : Nat} (hs : i.slotsExist n = true) (hd : i.dst = some d) :
    d.toNat < n :=
  of_decide_eq_true (List.all_eq_true.mp hs d (by simp [Instr.slotFields, hd]))

/-- A command whose rule writes a buffer to its destination stores it, and leaves `FSPEC` and `DEGEN` alone unless it is
one of those that concern them. -/
theorem exec_stores_of_rule_eq_ok {i : Instr} {d : SlotIx} {b : Buffer} {s : State} (hs : i.slotsExist s.par.nslot = true)
    (hdst : i.dst = some d) (hfilter : i.designsFilter = false) (himage : ¬ ∃ d a c, i = .formimg d a c)
    (h : rule i s = .ok (writeBuffer d b s)) :
    ∃ t, exec i s = .next t ∧ Stores d b s t ∧ t.fspec = s.fspec ∧ t.degen = s.degen := by
  obtain ⟨herr, hsticky, hinfo, hdegen, hfspec, hrest⟩ :=
    (Update.stores (s := s) i d (.valid b) hdst).success_frame hfilter himage
  exact ⟨_, exec_of_rule_eq_ok hs h,
    { stored := slotAt_writeSlot_self _ (dst_toNat_lt_of_slotsExist hs hdst)
      others := fun _ hj => slotAt_writeSlot_ne _ s fun hdj => hj (congrArg some hdj)
      load := loadAfter_writeSlot d (.valid b) s
      err := herr, sticky := hsticky, errInfo := hinfo, rest := hrest }, hfspec, hdegen⟩

/-! ### The rounded envelope (R191) -/

theorem exists_rndAll_eq_some {vs : List Exact} (h : ∀ v ∈ vs, v.rnd.isSome = true) : ∃ rs, rndAll vs = some rs := by
  refine Option.ne_none_iff_exists'.mp fun hnone => ?_
  obtain ⟨v, hv, hov⟩ := (rndAll_eq_none_iff vs).mp hnone
  simpa [hov] using h v hv

/-- The rounded list holds at each position what the value there rounds to. -/
theorem getElem?_of_rndAll {vs : List Exact} {rs : List Rat} (h : rndAll vs = some rs) {n : Nat} {v : Exact}
    (hv : vs[n]? = some v) : rs[n]? = v.rnd := by
  obtain ⟨r, hr, hrv⟩ : ∃ r, rs[n]? = some r ∧ some r = v.rnd := by
    simpa [hv, eq_comm] using rndAll_getElem? h n
  exact hr.trans hrv

section Demod
variable {d a : SlotIx} {s : State} {b : Signal}

theorem demodBody_of_fits {out : List Rat} (ha : slotAt s a = .valid (.signal b))
    (h : rndAll (envelope s.par b.data) = some out) :
    demodBody d a s = .ok (writeSignal d b.rate b.chan (.real out) s) := by
  simp [demodBody, storedEnvelope, (srcSignal_eq_ok_iff s a b).mpr ha, h, pure, Except.pure]

theorem demodBody_of_overflow (ha : slotAt s a = .valid (.signal b)) (h : rndAll (envelope s.par b.data) = none) :
    demodBody d a s = failAt .env .overflow := by
  simp [demodBody, storedEnvelope, (srcSignal_eq_ok_iff s a b).mpr ha, h]

/-- `DEMOD` of a signal of either kind whose envelope fits in `F`. -/
theorem exec_demod_stores (hs : (Instr.demod d a).slotsExist s.par.nslot = true) (ha : slotAt s a = .valid (.signal b))
    (hfits : ∀ v ∈ envelope s.par b.data, v.rnd.isSome = true) :
    ∃ (t : State) (out : List Rat), exec (.demod d a) s = .next t
      ∧ Stores d (.signal { rate := b.rate, chan := b.chan, data := .real out }) s t
      ∧ t.fspec = s.fspec ∧ t.degen = s.degen
      ∧ out.length = b.data.length
      ∧ ∀ (n : Nat) (v : Exact), (envelope s.par b.data)[n]? = some v → out[n]? = v.rnd := by
  obtain ⟨out, hout⟩ := exists_rndAll_eq_some hfits
  obtain ⟨t, ht, hstores, hfspec, hdegen⟩ :=
    exec_stores_of_rule_eq_ok hs rfl rfl (by simp) (demodBody_of_fits ha hout)
  exact ⟨t, out, ht, hstores, hfspec, hdegen, (rndAll_length hout).trans (envelope_length _ _),
    fun _ _ hv => getElem?_of_rndAll hout hv⟩

/-- `DEMOD` of a signal of either kind one of whose envelope values overflows. -/
theorem exec_demod_overflows (hs : (Instr.demod d a).slotsExist s.par.nslot = true) (ha : slotAt s a = .valid (.signal b))
    (hov : ∃ v ∈ envelope s.par b.data, v.rnd = none) :
    ∃ t, exec (.demod d a) s = .next t ∧ Fails (.demod d a) .env .overflow s t :=
  exec_fails_of_rule_eq_failAt hs (demodBody_of_overflow ha ((rndAll_eq_none_iff _).mpr hov))

end Demod

/-! ### The two kinds of source -/

/-- `NUM.mag` is rounded as the root it is (00_scope.md R25). -/
@[simp] theorem mag_rnd (z : Rat × Rat) : (mag z).rnd = rndRoot (z.1 * z.1 + z.2 * z.2) := rfl

/-- Settles O17: the envelope of COMPLEX data is the list of the magnitudes. -/
theorem demodOfComplexStoresMagnitudes : Obligations.DemodOfComplexStoresMagnitudes := by
  intro d a s rate chan zs hs ha
  refine ⟨fun hfits => ?_, fun ⟨z, hz, hov⟩ => ?_⟩
  · have hmag : ∀ v ∈ zs.map mag, v.rnd.isSome = true := List.forall_mem_map.mpr (by simpa using hfits)
    obtain ⟨t, out, ht, hstores, hfspec, hdegen, hlen, hout⟩ := exec_demod_stores hs ha hmag
    refine ⟨t, out, ht, hstores, hfspec, hdegen, hlen, fun n z hz => ?_⟩
    rw [hout n (mag z) (by simp [envelope, hz]), mag_rnd]
  · exact exec_demod_overflows hs ha ⟨mag z, List.mem_map_of_mem hz, (mag_rnd z).trans hov⟩

/-- Settles O18: the envelope of REAL data is `NUM.henv` of it, whichever instance of `NUM` the block has. -/
theorem demodOfRealStoresTheHilbertEnvelope : Obligations.DemodOfRealStoresTheHilbertEnvelope :=
  fun _ _ _ _ _ _ hs ha => ⟨exec_demod_stores hs ha, exec_demod_overflows hs ha⟩

end Sys2Proof.Machine
end

section
/-! PROOFS. `DECIM` (42_decimator.md R200 to R202): its rule check by check, and the samples it stores. Before it, for
every command that treats the parts of its source separately, when its results fit in `F` and what the stored samples
are. -/

namespace Sys2Proof.Machine

open Sys2Proof.Safety

/-! ### Results rounded part by part (00_scope.md R17, R24) -/

theorem rndAll_isSome (vs : List Exact) : (rndAll vs).isSome = vs.all fun v => v.rnd.isSome := by
  rw [Bool.eq_iff_iff, Option.isSome_iff_ne_none, ne_eq, rndAll_eq_none_iff]
  simp [Option.isSome_iff_ne_none]

/-- The rounded list of `n` values. -/
theorem getElem?_of_rndAll_range {n : Nat} {v : Nat → Exact} {rs : List Rat}
    (h : rndAll ((List.range n).map v) = some rs) : rs.length = n ∧ ∀ j, j < n → rs[j]? = (v j).rnd :=
  ⟨by simpa using rndAll_length h, fun j hj => getElem?_of_rndAll h (by simp [hj])⟩

section Parts
variable {F : List Rat → Option (List Rat)} {n : Nat} {v : List Rat → Nat → Exact} {x : Samples}

/-- Of an operation that rounds `n` values of each part: the results fit exactly when it answers. -/
theorem partsFit_eq_isSome (hF : ∀ xs, xs.length = x.length → F xs = rndAll ((List.range n).map (v xs))) :
    partsFit n (fun xs j => (v xs j).rnd) x = (mapParts F x).isSome := by
  cases x with
  | real xs => simp [partsFit, mapParts, hF xs rfl, rndAll_isSome, Function.comp_def]
  | complex zs =>
    have hre := hF (zs.map (·.1)) (by simp [Samples.length])
    have him := hF (zs.map (·.2)) (by simp [Samples.length])
    have hboth : (mapParts F (.complex zs)).isSome = ((F (zs.map (·.1))).isSome && (F (zs.map (·.2))).isSome) := by
      simp only [mapParts]
      cases F (zs.map (·.1)) <;> cases F (zs.map (·.2)) <;> rfl
    rw [hboth, hre, him, rndAll_isSome, rndAll_isSome, Bool.eq_iff_iff]
    simp [partsFit, forall_and]

/-- Of such an operation: what it answers are the rounded values. -/
theorem partsRounded_of_mapParts (hF : ∀ xs, xs.length = x.length → F xs = rndAll ((List.range n).map (v xs)))
    {out : Samples} (h : mapParts F x = some out) : PartsRounded n (fun xs j => (v xs j).rnd) x out := by
  obtain ⟨xs, ys, rfl, hys, rfl⟩ | ⟨zs, re, im, rfl, hre, him, rfl⟩ := mapParts_cases h
  · exact getElem?_of_rndAll_range ((hF xs rfl).symm.trans hys)
  · obtain ⟨hrelen, hre⟩ := getElem?_of_rndAll_range ((hF _ (by simp [Samples.length])).symm.trans hre)
    obtain ⟨himlen, him⟩ := getElem?_of_rndAll_range ((hF _ (by simp [Samples.length])).symm.trans him)
    refine ⟨by simp [hrelen, himlen], fun j hj => ?_⟩
    dsimp only
    rw [← hre j hj, ← him j hj, ← List.getElem?_map, ← List.getElem?_map, List.map_fst_zip (by omega),
      List.map_snd_zip (by omega)]
    exact ⟨rfl, rfl⟩

end Parts

/-! ### The filtered samples (R202) -/

/-- The model's convolution with common-divisor coefficients is the sum as R24 writes it. -/
theorem sameLowpass_eq_lowpassConvolution (p : Config.Params) (x : List Rat) (h : Lowpass) (n : Nat) :
    sameLowpass p x h n = lowpassConvolution p h x n := by
  unfold sameLowpass lowpassConvolution
  dsimp only
  congr 2
  refine List.ext_getElem (by simp) fun k hk _ => ?_
  have hk' : k < h.u.length := by simpa using hk
  simp [hk']

/-- Sample `j q` of `v` is sample `j` of the source itself when `q = 1`, else one of the convolution. -/
theorem decimFiltered_rnd (p : Config.Params) (q : Nat) (x : List Rat) (j : Nat) :
    (decimFiltered p q x (j * q)).rnd =
      if q = 1 then rndRat (x.getD j 0) else (lowpassConvolution p (numAntialias p q) x (j * q)).rnd := by
  unfold decimFiltered
  split
  · next hq => rw [hq, Nat.mul_one]; rfl
  · rw [sameLowpass_eq_lowpassConvolution]

/-! ### The decimation factor (R201) -/

theorem decimFactor_eq_of_floor {source target : Rat} {q : Nat} (h : (q : Int) = (source / target).floor) :
    decimFactor source target = q := by
  rw [decimFactor, ← h, Int.toNat_natCast]

theorem decimFactor_eq_zero_of_lt {source target : Rat} (ht : 0 < target) (hlt : source < target) :
    decimFactor source target = 0 := by
  have hfloor : (source / target).floor < 1 := Rat.floor_lt_iff.mpr (by simpa using (div_lt_one ht).mpr hlt)
  exact Int.toNat_eq_zero.mpr (by omega)

/-! ### The rule, check by check (R201) -/

section Decim
variable {d a : SlotIx} {s : State} {b : Signal} {T : Rat}

theorem decimBody_of_nonfinite (ha : slotAt s a = .valid (.signal b)) (hT : dec s.cfg.decAudioRate = none) :
    decimBody d a s = failAt .decim .cfgNonfinite := by
  simp [decimBody, (srcSignal_eq_ok_iff s a b).mpr ha, cfgFloat_of_nonfinite hT]

theorem decimBody_of_nonpos (ha : slotAt s a = .valid (.signal b)) (hT : dec s.cfg.decAudioRate = some T)
    (hnonpos : T ≤ 0) : decimBody d a s = failAt .decim .rateNonpos := by
  simp [decimBody, (srcSignal_eq_ok_iff s a b).mpr ha, (cfgFloat_eq_ok_iff _ _ _).mpr hT, hnonpos]

theorem decimBody_of_factor_zero (ha : slotAt s a = .valid (.signal b)) (hT : dec s.cfg.decAudioRate = some T)
    (hpos : 0 < T) (hq : decimFactor b.rate T = 0) : decimBody d a s = failAt .decim .decimLt1 := by
  simp [decimBody, (srcSignal_eq_ok_iff s a b).mpr ha, (cfgFloat_eq_ok_iff _ _ _).mpr hT, not_le.mpr hpos, hq]

theorem decimBody_of_short (ha : slotAt s a = .valid (.signal b)) (hT : dec s.cfg.decAudioRate = some T)
    (hpos : 0 < T) (hshort : b.data.length < decimFactor b.rate T) : decimBody d a s = failAt .decim .shortDecim := by
  have hq : decimFactor b.rate T ≠ 0 := by omega
  simp [decimBody, (srcSignal_eq_ok_iff s a b).mpr ha, (cfgFloat_eq_ok_iff _ _ _).mpr hT, not_le.mpr hpos, hq, hshort]

/-- With every check passed and the rate in `F`, only the samples can still overflow. -/
theorem decimBody_of_checked {actual : Rat} {q : Nat} (ha : slotAt s a = .valid (.signal b))
    (hT : dec s.cfg.decAudioRate = some T) (hpos : 0 < T) (hq : decimFactor b.rate T = q) (hq1 : 1 ≤ q)
    (hlen : q ≤ b.data.length) (hrate : rndRat (b.rate / q) = some actual) :
    decimBody d a s = (fun out => writeSignal d actual b.chan out s) <$>
      orOverflow .decim (mapParts (decimPart s.par q (b.data.length / q)) b.data) := by
  have hq0 : q ≠ 0 := by omega
  simp [decimBody, (srcSignal_eq_ok_iff s a b).mpr ha, (cfgFloat_eq_ok_iff _ _ _).mpr hT, not_le.mpr hpos, hq, hq0,
    not_lt.mpr hlen, hrate]

end Decim

/-- Settles O20: the checks of the rule one by one; the last two are checks of the factor `floor(S/T)`. -/
theorem decimChecksInOrder : Obligations.DecimChecksInOrder := by
  intro d a s b hs ha _
  refine ⟨fun hT => exec_fails_of_rule_eq_failAt hs (decimBody_of_nonfinite ha hT), fun T hT =>
    ⟨fun hnonpos => ?_, fun hpos hlt => ?_, fun hpos _ hshort => ?_⟩⟩
  · exact exec_fails_of_rule_eq_failAt hs (decimBody_of_nonpos ha hT hnonpos)
  · exact exec_fails_of_rule_eq_failAt hs (decimBody_of_factor_zero ha hT hpos (decimFactor_eq_zero_of_lt hpos hlt))
  · exact exec_fails_of_rule_eq_failAt hs (decimBody_of_short ha hT hpos (Int.lt_toNat.mpr hshort))

/-- Settles O19: with the checks passed the rule rounds, part by part, the samples R202 names; the statement's
condition is that this rounding answers. -/
theorem decimKeepsEveryQthFilteredSample : Obligations.DecimKeepsEveryQthFilteredSample := by
  intro d a s b T actual q hs ha hT hpos hq hq1 hlen hrate
  have hbody := decimBody_of_checked (d := d) ha hT hpos (decimFactor_eq_of_floor hq) hq1 hlen hrate
  have hparts (xs : List Rat) (_ : xs.length = b.data.length) : decimPart s.par q (b.data.length / q) xs =
    rndAll ((List.range (b.data.length / q)).map fun j => decimFiltered s.par q xs (j * q)) := rfl
  simp only [← decimFiltered_rnd, partsFit_eq_isSome hparts]
  cases hout : mapParts (decimPart s.par q (b.data.length / q)) b.data with
  | none =>
    rw [hout] at hbody
    exact ⟨by simp, fun _ => exec_fails_of_rule_eq_failAt hs hbody⟩
  | some out =>
    rw [hout] at hbody
    obtain ⟨t, ht, hstores, hfspec, hdegen⟩ := exec_stores_of_rule_eq_ok hs rfl rfl (by simp) hbody
    exact ⟨fun _ => ⟨t, out, ht, hstores, hfspec, hdegen, partsRounded_of_mapParts hparts hout⟩, by simp⟩

end Sys2Proof.Machine
end

section
/-! PROOFS. `BPDESIGN` and `BPAPPLY` (43_fir_bandpass.md R210 to R215): the design that `BPDESIGN` and `EXTRACT` begin with,
check by check, and the filter applied to a buffer. -/

namespace Sys2Proof.Machine

open Sys2Proof.Safety

/-! ### The design of a filter, check by check (R211) -/

section Design
variable {s : State} {p : Config.Params} {fs low high : Rat} {taps : Nat}

theorem designChecks_of_nonfinite (h : dec s.cfg.fltBpLow = none ∨ dec s.cfg.fltBpHigh = none) :
    designChecks fs s = failAt .bpdesign .cfgNonfinite := by
  cases hlow : dec s.cfg.fltBpLow with
  | none => simp [designChecks, cfgFloat_of_nonfinite hlow]
  | some low =>
    have hhigh := h.resolve_left (by simp [hlow])
    simp [designChecks, (cfgFloat_eq_ok_iff _ _ _).mpr hlow, cfgFloat_of_nonfinite hhigh]

theorem designChecks_of_bandOrder (hlow : dec s.cfg.fltBpLow = some low) (hhigh : dec s.cfg.fltBpHigh = some high)
    (h : ¬ (0 < low ∧ low < high)) : designChecks fs s = failAt .bpdesign .bandOrder := by
  simp only [designChecks, (cfgFloat_eq_ok_iff _ _ _).mpr hlow, (cfgFloat_eq_ok_iff _ _ _).mpr hhigh, except_bind_ok,
    ← Bool.decide_and, decide_eq_false h, Bool.not_false, failIf_true, failAt_bind]

theorem designChecks_of_nyquist (hlow : dec s.cfg.fltBpLow = some low) (hhigh : dec s.cfg.fltBpHigh = some high)
    (h0 : 0 < low) (hlt : low < high) (h : fs / 2 ≤ high) : designChecks fs s = failAt .bpdesign .nyquist := by
  simp [designChecks, (cfgFloat_eq_ok_iff _ _ _).mpr hlow, (cfgFloat_eq_ok_iff _ _ _).mpr hhigh, h0, hlt, h]

theorem designChecks_of_taps (hlow : dec s.cfg.fltBpLow = some low) (hhigh : dec s.cfg.fltBpHigh = some high)
    (h0 : 0 < low) (hlt : low < high) (hny : high < fs / 2)
    (h : s.cfg.fltFirTaps.toNat % 2 = 0 ∨ s.par.maxtaps < s.cfg.fltFirTaps.toNat) :
    designChecks fs s = failAt .bpdesign .taps := by
  simp only [designChecks, (cfgFloat_eq_ok_iff _ _ _).mpr hlow, (cfgFloat_eq_ok_iff _ _ _).mpr hhigh, except_bind_ok, h0,
    hlt, not_le.mpr hny, ← Bool.decide_or, decide_eq_true h, decide_true, decide_false, Bool.and_self, Bool.not_true,
    failIf_false, failIf_true, failAt_bind]

theorem designChecks_of_passed (hlow : dec s.cfg.fltBpLow = some low) (hhigh : dec s.cfg.fltBpHigh = some high)
    (h0 : 0 < low) (hlt : low < high) (hny : high < fs / 2) (hodd : s.cfg.fltFirTaps.toNat % 2 = 1)
    (hmax : s.cfg.fltFirTaps.toNat ≤ s.par.maxtaps) :
    designChecks fs s = .ok (low, high, s.cfg.fltFirTaps.toNat) := by
  simp [designChecks, (cfgFloat_eq_ok_iff _ _ _).mpr hlow, (cfgFloat_eq_ok_iff _ _ _).mpr hhigh, h0, hlt,
    not_le.mpr hny, hodd, not_lt.mpr hmax, pure, Except.pure]

theorem designFilter_of_fits {coef : List Rat} (h : rndAll (numBpdesign p low high fs taps) = some coef) :
    designFilter p low high fs taps =
      .ok { valid := true, low := low, high := high, fs := fs, taps := taps, coef := coef } := by
  simp [designFilter, h, pure, Except.pure]

theorem designFilter_of_overflow (h : ∃ c ∈ numBpdesign p low high fs taps, c.rnd = none) :
    designFilter p low high fs taps = failAt .bpdesign .overflow := by
  simp [designFilter, (rndAll_eq_none_iff _).mpr h]

end Design

/-! ### The two commands that design a filter (R211, 45_channel_extractor.md R244) -/

section Designs
variable {i : Instr} {a : SlotIx} {s : State} {rate : Rat} {chan : BitVec 2} {data : Samples}
  (hi : i = .bpdesign a ∨ (data.kind = .real ∧ ∃ d ch, i = .extract d a ch))
  (ha : slotAt s a = .valid (.signal { rate := rate, chan := chan, data := data }))
include hi ha

/-- Both commands make the design checks as soon as they have their source, so a check that fails is their failure. -/
theorem rule_of_designChecks_failAt {g : Stage} {r : Reason} (h : designChecks rate s = failAt g r) :
    rule i s = failAt g r := by
  obtain rfl | ⟨hkind, d, ch, rfl⟩ := hi
  · simp [rule, bpdesignBody, (srcSignal_eq_ok_iff _ _ _).mpr ha, h]
  · cases data with
    | real xs => simp [rule, extractBody, (srcReal_eq_ok_iff _ _ _ _).mpr ⟨ha, rfl⟩, h]
    | complex zs => cases hkind

/-- Both commands then round the coefficients, `EXTRACT` after it has compared its samples with the taps. -/
theorem rule_of_designFilter_failAt {low high : Rat} {taps : Nat} {g : Stage} {r : Reason}
    (hchecks : designChecks rate s = .ok (low, high, taps)) (hlen : i = .bpdesign a ∨ taps ≤ data.length)
    (h : designFilter s.par low high rate taps = failAt g r) : rule i s = failAt g r := by
  obtain rfl | ⟨hkind, d, ch, rfl⟩ := hi
  · simp [rule, bpdesignBody, (srcSignal_eq_ok_iff _ _ _).mpr ha, hchecks, h]
  · cases data with
    | real xs =>
      have hshort : ¬ xs.length < taps := not_lt.mpr (hlen.resolve_left (by simp))
      simp [rule, extractBody, (srcReal_eq_ok_iff _ _ _ _).mpr ⟨ha, rfl⟩, hchecks, hshort, h]
    | complex zs => cases hkind

end Designs

/-- Settles O24: each failure of the design, of a check or of the rounding, is the failure of either command. -/
theorem designChecksInOrder : Obligations.DesignChecksInOrder := by
  intro i a s rate chan data hi hs ha
  have hfails {g : Stage} {r : Reason} (h : designChecks rate s = failAt g r) :
      ∃ t, exec i s = .next t ∧ Fails i g r s t :=
    exec_fails_of_rule_eq_failAt hs (rule_of_designChecks_failAt hi ha h)
  refine ⟨fun h => hfails (designChecks_of_nonfinite h), fun low high hlow hhigh =>
    ⟨fun h => ?_, fun h0 hlt h => ?_, fun h0 hlt hny h => ?_, fun h0 hlt hny hodd hmax hlen h => ?_⟩⟩
  · exact hfails (designChecks_of_bandOrder hlow hhigh h)
  · exact hfails (designChecks_of_nyquist hlow hhigh h0 hlt h)
  · exact hfails (designChecks_of_taps hlow hhigh h0 hlt hny h)
  · exact exec_fails_of_rule_eq_failAt hs (rule_of_designFilter_failAt hi ha
      (designChecks_of_passed hlow hhigh h0 hlt hny hodd hmax) hlen (designFilter_of_overflow h))

theorem bpdesignBody_of_designed {a : SlotIx} {s : State} {b : Signal} {low high : Rat} {taps : Nat} {f : FilterSpec}
    (ha : slotAt s a = .valid (.signal b)) (hchecks : designChecks b.rate s = .ok (low, high, taps))
    (hf : designFilter s.par low high b.rate taps = .ok f) : bpdesignBody a s = .ok (setFilter f s) := by
  simp [bpdesignBody, (srcSignal_eq_ok_iff _ _ _).mpr ha, hchecks, hf, pure, Except.pure]

/-- Settles O23: the checks pass and the coefficients round, so the update stores the filter; they are symmetric because
`NUM.bpdesign` is. -/
theorem bpdesignStoresTheFilter : Obligations.BpdesignStoresTheFilter := by
  intro a s b low high hslot ha hlow hhigh h0 hlt hny hodd hmax hfits
  obtain ⟨coef, hcoef⟩ := exists_rndAll_eq_some hfits
  have hbody := bpdesignBody_of_designed ha (designChecks_of_passed hlow hhigh h0 hlt hny hodd hmax)
    (designFilter_of_fits hcoef)
  have hlen : coef.length = s.cfg.fltFirTaps.toNat := (rndAll_length hcoef).trans (numBpdesign_length ..)
  exact ⟨_, coef, exec_of_rule_eq_ok (slotsExist_of_slotFields rfl hslot) hbody, rfl, hlen,
    rndAll_reverse hcoef (numBpdesign_reverse ..), fun _ _ hc => getElem?_of_rndAll hcoef hc, fun _ _ => rfl,
    loadAfter_none rfl rfl rfl, rfl, rfl, rfl, rfl, ⟨rfl, rfl, rfl, rfl, rfl, rfl, rfl⟩⟩

/-! ### A command whose last act is to round each part (00_scope.md R17, R24) -/

/-- Such a command stores the rounded values when all of them fit in `F`, and fails with the overflow when one does not. -/
theorem exec_of_rule_rounds_parts {i : Instr} {d : SlotIx} {s : State} {rate : Rat} {chan : BitVec 2} {g : Stage}
    {F : List Rat → Option (List Rat)} {n : Nat} {v : List Rat → Nat → Exact} {x : Samples}
    (hs : i.slotsExist s.par.nslot = true) (hdst : i.dst = some d) (hfilter : i.designsFilter = false)
    (himage : ¬ ∃ d a c, i = .formimg d a c)
    (hF : ∀ xs, xs.length = x.length → F xs = rndAll ((List.range n).map (v xs)))
    (h : rule i s = (fun out => writeSignal d rate chan out s) <$> orOverflow g (mapParts F x)) :
    (partsFit n (fun xs j => (v xs j).rnd) x = true →
      ∃ (t : State) (out : Samples), exec i s = .next t
        ∧ Stores d (.signal { rate := rate, chan := chan, data := out }) s t
        ∧ t.fspec = s.fspec ∧ t.degen = s.degen ∧ PartsRounded n (fun xs j => (v xs j).rnd) x out)
    ∧ (partsFit n (fun xs j => (v xs j).rnd) x = false →
      ∃ t, exec i s = .next t ∧ Fails i g .overflow s t) := by
  rw [partsFit_eq_isSome hF]
  cases hout : mapParts F x with
  | none =>
    rw [hout] at h
    exact ⟨by simp, fun _ => exec_fails_of_rule_eq_failAt hs h⟩
  | some out =>
    rw [hout] at h
    obtain ⟨t, ht, hstores, hfspec, hdegen⟩ := exec_stores_of_rule_eq_ok hs hdst hfilter himage h
    exact ⟨fun _ => ⟨t, out, ht, hstores, hfspec, hdegen, partsRounded_of_mapParts hF hout⟩, by simp⟩

/-! ### `BPAPPLY` (R214) -/

/-- The model's convolution is the sum as R24 writes it. -/
theorem sameAt_eq_convolution (x h : List Rat) (n : Nat) : sameAt x h n = convolution h x n := sumR_eq_sum _

theorem rndRats_same (x h : List Rat) :
    rndRats (same x h) = rndAll ((List.range x.length).map fun n => .rat (convolution h x n)) := by
  simp only [rndRats, same, List.map_map, Function.comp_def, sameAt_eq_convolution]

section Bpapply
variable {d a : SlotIx} {s : State} {b : Signal}

theorem bpapplyBody_of_noFilter (ha : slotAt s a = .valid (.signal b)) (hvalid : s.fspec.valid = false) :
    bpapplyBody d a s = failAt .decode .noFilter := by
  simp [bpapplyBody, (srcSignal_eq_ok_iff _ _ _).mpr ha, hvalid]

theorem bpapplyBody_of_otherRate (ha : slotAt s a = .valid (.signal b)) (hvalid : s.fspec.valid = true)
    (hfs : s.fspec.fs ≠ b.rate) : bpapplyBody d a s = failAt .bpapply .rateMismatch := by
  simp [bpapplyBody, (srcSignal_eq_ok_iff _ _ _).mpr ha, hvalid, hfs]

theorem bpapplyBody_of_short (ha : slotAt s a = .valid (.signal b)) (hvalid : s.fspec.valid = true)
    (hfs : s.fspec.fs = b.rate) (hshort : b.data.length < s.fspec.taps) :
    bpapplyBody d a s = failAt .bpapply .shortFilter := by
  simp [bpapplyBody, (srcSignal_eq_ok_iff _ _ _).mpr ha, hvalid, hfs, hshort]

/-- With every check passed, only the samples can still overflow. -/
theorem bpapplyBody_of_checked (ha : slotAt s a = .valid (.signal b)) (hvalid : s.fspec.valid = true)
    (hfs : s.fspec.fs = b.rate) (hlen : s.fspec.taps ≤ b.data.length) :
    bpapplyBody d a s = (fun out => writeSignal d b.rate b.chan out s) <$>
      orOverflow .bpapply (mapParts (fun x => rndRats (same x s.fspec.coef)) b.data) := by
  simp [bpapplyBody, applyFilter, (srcSignal_eq_ok_iff _ _ _).mpr ha, hvalid, hfs, not_lt.mpr hlen]

end Bpapply

/-- Settles O26: the three checks of the rule one by one. -/
theorem bpapplyChecksInOrder : Obligations.BpapplyChecksInOrder := by
  intro d a s b hs ha
  refine ⟨fun hvalid => ?_, fun hvalid hfs => ?_, fun hvalid hfs hshort => ?_⟩
  · exact exec_fails_of_rule_eq_failAt hs (bpapplyBody_of_noFilter ha hvalid)
  · exact exec_fails_of_rule_eq_failAt hs (bpapplyBody_of_otherRate ha hvalid hfs)
  · exact exec_fails_of_rule_eq_failAt hs (bpapplyBody_of_short ha hvalid hfs hshort)

/-- Settles O25: with the checks passed the rule rounds, part by part, the convolution with the stored coefficients. -/
theorem bpapplyConvolves : Obligations.BpapplyConvolves := by
  intro d a s b hs ha hvalid hfs hlen
  have hparts (x : List Rat) (hx : x.length = b.data.length) : rndRats (same x s.fspec.coef) =
      rndAll ((List.range b.data.length).map fun n => .rat (convolution s.fspec.coef x n)) := hx ▸ rndRats_same x _
  exact exec_of_rule_rounds_parts hs rfl rfl (by simp) hparts (bpapplyBody_of_checked ha hvalid hfs hlen)

end Sys2Proof.Machine
end

section
/-! PROOFS. `AGC` (44_agc.md R230 to R235): the window of the median, the clamped gain, and the rule check by check. -/

namespace Sys2Proof.Machine

/-! ### The window of the median (R233) -/

theorem agcWindow_of_odd {n : Nat} (h : max 3 (n / 100) % 2 = 1) : agcWindow n = max 3 (n / 100) := if_pos h

theorem agcWindow_of_even {n : Nat} (h : max 3 (n / 100) % 2 = 0) : agcWindow n = max 3 (n / 100) + 1 :=
  if_neg (by omega)

/-- From the length 300 on, the hundredth part is the larger of the two. -/
theorem agcWindow_of_300_le {n : Nat} (h : 300 ≤ n) : agcWindow n = 2 * (n / 100 / 2) + 1 := by
  have hmax : max 3 (n / 100) = n / 100 := max_eq_right (by omega)
  rcases Nat.mod_two_eq_zero_or_one (max 3 (n / 100)) with heven | hodd
  · rw [agcWindow_of_even heven]; omega
  · rw [agcWindow_of_odd hodd]; omega

theorem agcWindow_of_lt_300 {n : Nat} (h : n < 300) : agcWindow n = 3 := by
  have hmax : max 3 (n / 100) = 3 := max_eq_left (by omega)
  rw [agcWindow_of_odd (by rw [hmax]), hmax]

/-- Settles O29: below the length 300 the window is 3, and from there on it is a function of the hundredth part, which
gives the listed ranges. -/
theorem agcWindowFollowsTheRule : Obligations.AgcWindowFollowsTheRule := by
  refine ⟨fun n => ⟨agcWindow_of_odd, agcWindow_of_even, ?_⟩, fun e n => ?_⟩
  · rcases lt_or_ge n 300 with hlt | hge
    · rw [agcWindow_of_lt_300 hlt]; omega
    · rw [agcWindow_of_300_le hge]; omega
  · simp only [agcSmoothed, add_sub_right_comm]

/-! ### The gain (R231, R235) -/

theorem agcGain_eq (T m : Rat) : agcGain T m = min 10 (max (1 / 10) (T / max m (1 / 10 ^ 10))) := by
  have heps : agcEps = 1 / 10 ^ 10 := by norm_num [agcEps, Rat.mkRat_eq_div]
  have hmin : agcMin = 1 / 10 := by norm_num [agcMin, Rat.mkRat_eq_div]
  simp only [agcGain, ← max_def_lt, ← min_def_lt, heps, hmin, agcMax]
  rw [max_comm m, max_comm (1 / 10 : Rat)]

theorem agcGain_mem_Icc (T m : Rat) : agcGain T m ∈ Set.Icc (1 / 10) 10 := by
  rw [agcGain_eq]
  exact ⟨le_min (by norm_num) (le_max_left _ _), min_le_left _ _⟩

@[simp] theorem agcGains_length (T : Rat) (e : List Rat) : (agcGains T e).length = e.length := by simp [agcGains]

/-- Settles O28: the outer clamps bound every gain. -/
theorem agcGainIsBounded : Obligations.AgcGainIsBounded := fun T e =>
  ⟨agcGains_length T e, List.forall_mem_map.mpr fun n _ => agcGain_mem_Icc T (agcSmoothed e n)⟩

/-! ### The rule, check by check (R231, R232) -/

/-- The products of a list with one gain for each of its elements. -/
theorem rndRats_zipWith_gains (x : List Rat) (g : Nat → Rat) :
    rndRats (x.zipWith (· * ·) ((List.range x.length).map g)) =
      rndAll ((List.range x.length).map fun n => .rat (x.getD n 0 * g n)) := by
  rw [rndRats]
  congr 1
  refine List.ext_getElem (by simp) fun n hn _ => ?_
  have hn' : n < x.length := by simpa using hn
  simp [hn']

section Agc
variable {d a : SlotIx} {s : State} {b : Signal} {T : Rat}

theorem agcBody_of_nonfinite (ha : slotAt s a = .valid (.signal b)) (hT : dec s.cfg.agcTarget = none) :
    agcBody d a s = failAt .agc .cfgNonfinite := by
  simp [agcBody, (srcSignal_eq_ok_iff s a b).mpr ha, cfgFloat_of_nonfinite hT]

theorem agcBody_of_envelope_overflow (ha : slotAt s a = .valid (.signal b)) (hT : dec s.cfg.agcTarget = some T)
    (he : rndAll (envelope s.par b.data) = none) : agcBody d a s = failAt .agc .overflow := by
  simp [agcBody, storedEnvelope, (srcSignal_eq_ok_iff s a b).mpr ha, (cfgFloat_eq_ok_iff _ _ _).mpr hT, he]

/-- With the target and the envelope known, only the products can still overflow. -/
theorem agcBody_of_envelope {e : List Rat} (ha : slotAt s a = .valid (.signal b))
    (hT : dec s.cfg.agcTarget = some T) (he : rndAll (envelope s.par b.data) = some e) :
    agcBody d a s = (fun out => writeSignal d b.rate b.chan out s) <$>
      orOverflow .agc (mapParts (fun x => rndRats (x.zipWith (· * ·) (agcGains T e))) b.data) := by
  simp [agcBody, storedEnvelope, applyGains, (srcSignal_eq_ok_iff s a b).mpr ha, (cfgFloat_eq_ok_iff _ _ _).mpr hT, he]

end Agc

/-- Settles O27: the two early failures one by one; after them the rule rounds, part by part, the products with the gains
of the stored envelope, which is as long as the data. -/
theorem agcScalesByTheClampedGain : Obligations.AgcScalesByTheClampedGain := by
  intro d a s b hs ha
  refine ⟨fun hT => exec_fails_of_rule_eq_failAt hs (agcBody_of_nonfinite ha hT), fun T hT =>
    ⟨fun he => exec_fails_of_rule_eq_failAt hs (agcBody_of_envelope_overflow ha hT he), fun e g he hg => ?_⟩⟩
  have hlen : e.length = b.data.length := (rndAll_length he).trans (envelope_length _ _)
  have hgains : agcGains T e = (List.range b.data.length).map g := by
    rw [agcGains, hlen]
    exact List.map_congr_left fun n _ => (agcGain_eq T _).trans (hg n).symm
  have hparts (x : List Rat) (hx : x.length = b.data.length) : rndRats (x.zipWith (· * ·) (agcGains T e)) =
      rndAll ((List.range b.data.length).map fun n => .rat (x.getD n 0 * g n)) := by
    rw [hgains, ← hx, rndRats_zipWith_gains]
  exact exec_of_rule_rounds_parts hs rfl rfl (by simp) hparts (agcBody_of_envelope ha hT he)

end Sys2Proof.Machine
end

section
/-! PROOFS. `DCREM` and `EXTRACT` (45_channel_extractor.md R240 to R244): the removed mean, the four steps of `EXTRACT`
one after the other, and its outcome at each of them. -/

namespace Sys2Proof.Machine

open Sys2Proof.Safety

/-! ### The removed mean (R241) -/

theorem mean_eq (x : List Rat) : mean x = x.sum / x.length := by rw [mean, sumR_eq_sum]

/-- The rounded differences from the exact mean. -/
theorem rndRats_sub_mean_eq_some_iff (x out : List Rat) :
    rndRats (x.map fun v => v - mean x) = some out ↔ x.map (fun v => rndRat (v - x.sum / x.length)) = out.map some := by
  rw [rndRats, rndAll_eq_some_iff, List.map_map, List.map_map, mean_eq]
  rfl

theorem rndRats_sub_mean_eq_none_iff (x : List Rat) :
    rndRats (x.map fun v => v - mean x) = none ↔ ∃ v ∈ x, rndRat (v - x.sum / x.length) = none := by
  simp [rndRats, rndAll_eq_none_iff, Exact.rnd, mean_eq]

/-- The mean of numbers in an interval lies in it. -/
theorem mean_mem_Icc {x : List Rat} {lo hi : Rat} (hne : x ≠ []) (h : ∀ v ∈ x, v ∈ Set.Icc lo hi) :
    mean x ∈ Set.Icc lo hi := by
  have hlen : (0 : Rat) < x.length := by exact_mod_cast List.length_pos_iff.mpr hne
  have hlo := List.card_nsmul_le_sum x lo fun v hv => (h v hv).1
  have hhi := List.sum_le_card_nsmul x hi fun v hv => (h v hv).2
  rw [nsmul_eq_mul] at hlo hhi
  rw [mean_eq]
  exact ⟨(le_div_iff₀ hlen).mpr (by linarith), (div_le_iff₀ hlen).mpr (by linarith)⟩

/-- Removing the mean of non-negative elements of `F` cannot overflow: their distances from the mean are at most the
largest of them. -/
theorem exists_removeMean_of_nonneg {x : List Rat} (h : ∀ v ∈ x, isF v = true ∧ 0 ≤ v) :
    ∃ out, removeMean x = .ok out := by
  simp only [removeMean, orOverflow_eq_ok_iff]
  refine Option.ne_none_iff_exists'.mp fun hnone => ?_
  obtain ⟨v, hv, hov⟩ := (rndRats_sub_mean_eq_none_iff x).mp hnone
  obtain ⟨m, hm, hmax⟩ := x.toFinset.exists_max_image id ⟨v, by simpa using hv⟩
  rw [List.mem_toFinset] at hm
  have hIcc : ∀ w ∈ x, w ∈ Set.Icc 0 m := fun w hw => ⟨(h w hw).2, hmax w (by simpa using hw)⟩
  have hmean := mean_mem_Icc (List.ne_nil_of_mem hv) hIcc
  have hbound := abs_lt_overflowBound (h m hm).1
  rw [rndRat_eq_none_iff, ← mean_eq] at hov
  exact absurd (abs_sub_le_of_nonneg_of_le (hIcc v hv).1 (hIcc v hv).2 hmean.1 hmean.2)
    (not_le.mpr (((le_abs_self m).trans_lt hbound).trans_le hov))

/-! ### `DCREM` (R241) -/

theorem dcremBody_eq {d a : SlotIx} {s : State} {b : Signal} {xs : List Rat} (ha : slotAt s a = .valid (.signal b))
    (hx : b.data = .real xs) :
    dcremBody d a s = (fun out => writeSignal d b.rate b.chan (.real out) s) <$> removeMean xs := by
  rw [dcremBody, (srcReal_eq_ok_iff s a b xs).mpr ⟨ha, hx⟩]
  rfl

/-- Settles O31: the rule stores the rounded differences, or fails when one of them overflows. -/
theorem dcremSubtractsTheMean : Obligations.DcremSubtractsTheMean := by
  intro d a s rate chan xs hs ha
  have hrule : rule (.dcrem d a) s = _ := dcremBody_eq ha rfl
  have hnone := rndRats_sub_mean_eq_none_iff xs
  rw [removeMean] at hrule
  refine ⟨fun hfits => ?_, fun hov => ?_⟩
  · obtain ⟨out, hout⟩ : ∃ out, rndRats (xs.map fun v => v - mean xs) = some out :=
      Option.ne_none_iff_exists'.mp fun h => by
        obtain ⟨v, hv, hov⟩ := hnone.mp h
        simpa [hov] using hfits v hv
    rw [hout] at hrule
    obtain ⟨t, ht, hstores, hfspec, hdegen⟩ := exec_stores_of_rule_eq_ok hs rfl rfl (by simp) hrule
    refine ⟨t, out, ht, hstores, hfspec, hdegen, by simpa using rndRats_length hout, fun n x hx => ?_⟩
    have hget : out[n]? = rndRat (x - mean xs) := getElem?_of_rndAll (v := .rat (x - mean xs)) hout (by simp [hx])
    rw [hget, mean_eq]
  · rw [hnone.mpr hov] at hrule
    exact exec_fails_of_rule_eq_failAt hs hrule

/-! ### The steps of `EXTRACT` (R244) -/

/-- A stored envelope has no negative element (00_scope.md R30). -/
theorem rndAll_numHenv_nonneg {p : Config.Params} {x y : List Rat} (h : rndAll (numHenv p x) = some y) :
    ∀ v ∈ y, 0 ≤ v := by
  intro v hv
  have hmem : some v ∈ (numHenv p x).map Exact.rnd := (rndAll_eq_some_iff _ _).mp h ▸ List.mem_map_of_mem hv
  obtain ⟨e, he, hrnd⟩ := List.mem_map.mp hmem
  exact numHenv_nonneg he hrnd

/-- `f` is the filter that the design checks and the rounding of the coefficients give for a rate. -/
def Designed (s : State) (rate : Rat) (f : FilterSpec) : Prop :=
  ∃ low high taps, designChecks rate s = .ok (low, high, taps) ∧ designFilter s.par low high rate taps = .ok f

/-- What the four steps of `EXTRACT` give for the samples `xs` of a source, one after the other. -/
structure Extraction (s : State) (rate : Rat) (xs : List Rat) (f : FilterSpec) (y1 y2 out : List Rat) : Prop where
  designed : Designed s rate f
  long : f.taps ≤ xs.length
  filtered : rndRats (same xs f.coef) = some y1
  enveloped : rndAll (numHenv s.par y1) = some y2
  centred : removeMean y2 = .ok out

/-- A designed filter is valid, at the rate it was designed for. -/
theorem Designed.valid_fs {s : State} {rate : Rat} {f : FilterSpec} (h : Designed s rate f) :
    f.valid = true ∧ f.fs = rate := by
  obtain ⟨low, high, taps, -, hf⟩ := h
  obtain ⟨coef, -, rfl⟩ := designFilter_ok hf
  exact ⟨rfl, rfl⟩

section Extract
variable {d a : SlotIx} {ch : BitVec 2} {s u : State} {rate : Rat} {chan : BitVec 2} {xs : List Rat} {f : FilterSpec}
  (ha : slotAt s a = .valid (.signal { rate := rate, chan := chan, data := .real xs }))
include ha

theorem extractBody_of_short {low high : Rat} {taps : Nat} (hchecks : designChecks rate s = .ok (low, high, taps))
    (hshort : xs.length < taps) : extractBody d a ch s = failAt .bpapply .shortFilter := by
  simp [extractBody, (srcReal_eq_ok_iff _ _ _ _).mpr ⟨ha, rfl⟩, hchecks, hshort]

/-- With the filter designed, what is left are the three steps that can overflow. -/
theorem extractBody_of_designed (hf : Designed s rate f) (hlen : f.taps ≤ xs.length) :
    extractBody d a ch s = (do
      let y1 ← orOverflow .bpapply (rndRats (same xs f.coef))
      let y2 ← orOverflow .env (rndAll (numHenv s.par y1))
      let out ← removeMean y2
      pure (writeSignal d rate ch (.real out) (setFilter f s))) := by
  obtain ⟨low, high, taps, hchecks, hf⟩ := hf
  obtain ⟨coef, -, rfl⟩ := designFilter_ok hf
  simp only [extractBody, (srcReal_eq_ok_iff _ _ _ _).mpr ⟨ha, rfl⟩, except_bind_ok, hchecks, not_lt.mpr hlen,
    decide_false, failIf_false, hf]
  rfl

/-- `EXTRACT` succeeds exactly when its steps give a result, which it stores with its own channel tag. -/
theorem extractBody_eq_ok_iff : extractBody d a ch s = .ok u ↔ ∃ f y1 y2 out, Extraction s rate xs f y1 y2 out
    ∧ u = writeSignal d rate ch (.real out) (setFilter f s) := by
  constructor
  · intro h
    simp only [extractBody, (srcReal_eq_ok_iff _ _ _ _).mpr ⟨ha, rfl⟩, except_bind_ok, except_bind_eq_ok_iff,
      Prod.exists, failIf_eq_ok_iff, decide_eq_false_iff_not, not_lt, orOverflow_eq_ok_iff, storedEnvelope, envelope,
      except_pure_eq_ok_iff] at h
    obtain ⟨low, high, taps, hchecks, -, hlen, f, hf, y1, h1, y2, h2, out, h3, rfl⟩ := h
    obtain ⟨coef, -, rfl⟩ := designFilter_ok hf
    exact ⟨_, y1, y2, out, ⟨⟨low, high, taps, hchecks, hf⟩, hlen, h1, h2, h3⟩, rfl⟩
  · rintro ⟨f, y1, y2, out, ⟨hf, hlen, h1, h2, h3⟩, rfl⟩
    simp [extractBody_of_designed ha hf hlen, h1, h2, h3, pure, Except.pure]

end Extract

/-- A command that stores a filter and a result buffer. -/
theorem exec_extract_stores {d a : SlotIx} {ch : BitVec 2} {s : State} {f : FilterSpec} {b : Buffer}
    (hs : (Instr.extract d a ch).slotsExist s.par.nslot = true)
    (h : extractBody d a ch s = .ok (writeBuffer d b (setFilter f s))) :
    ∃ t, exec (.extract d a ch) s = .next t ∧ Stores d b s t ∧ t.fspec = f ∧ t.degen = s.degen := by
  have hup := Update.extracts (s := s) d a ch f (.valid b)
  obtain ⟨hsticky, hinfo⟩ := hup.flags
  exact ⟨_, exec_of_rule_eq_ok hs h,
    { stored := slotAt_writeSlot_self (s := setFilter f s) _ (dst_toNat_lt_of_slotsExist hs rfl)
      others := fun _ hj => hup.others hj (by simp)
      load := hup.load (by simp) (by simp)
      err := rfl, sticky := hsticky, errInfo := hinfo, rest := { hup.rest with } },
    writeSlot_fspec _ _ _, hup.degen.resolve_right (by simp)⟩

/-- The design of a filter as the statements about `EXTRACT` put it. -/
theorem designed_of_passed {s : State} {rate low high : Rat} {coef : List Rat} (hlow : dec s.cfg.fltBpLow = some low)
    (hhigh : dec s.cfg.fltBpHigh = some high) (h0 : 0 < low) (hlt : low < high) (hny : high < rate / 2)
    (hodd : s.cfg.fltFirTaps.toNat % 2 = 1) (hmax : s.cfg.fltFirTaps.toNat ≤ s.par.maxtaps)
    (hcoef : (numBpdesign s.par low high rate s.cfg.fltFirTaps.toNat).map Exact.rnd = coef.map some) :
    Designed s rate
      { valid := true, low := low, high := high, fs := rate, taps := s.cfg.fltFirTaps.toNat, coef := coef } :=
  ⟨low, high, _, designChecks_of_passed hlow hhigh h0 hlt hny hodd hmax,
    designFilter_of_fits ((rndAll_eq_some_iff _ _).mpr hcoef)⟩

theorem rndRats_same_eq_some_iff (x h y : List Rat) :
    rndRats (same x h) = some y ↔ (List.range x.length).map (fun n => rndRat (convolution h x n)) = y.map some := by
  rw [rndRats_same, rndAll_eq_some_iff, List.map_map]
  rfl

theorem rndRats_same_eq_none_iff (x h : List Rat) :
    rndRats (same x h) = none ↔ ∃ n, n < x.length ∧ rndRat (convolution h x n) = none := by
  simp [rndRats_same, rndAll_eq_none_iff, Exact.rnd]

/-- Settles O32: the four steps give what the premises name, and the rule stores it. -/
theorem extractFiltersDemodulatesAndCentres : Obligations.ExtractFiltersDemodulatesAndCentres := by
  intro d a ch s rate chan xs low high coef y1 y2 out hs ha hlow hhigh h0 hlt hny hodd hmax hlen hcoef h1 h2 h3
  have hsteps : Extraction s rate xs _ y1 y2 out :=
    { designed := designed_of_passed hlow hhigh h0 hlt hny hodd hmax hcoef
      long := hlen
      filtered := (rndRats_same_eq_some_iff xs coef y1).mpr h1
      enveloped := (rndAll_eq_some_iff _ _).mpr h2
      centred := (orOverflow_eq_ok_iff _ _ _).mpr ((rndRats_sub_mean_eq_some_iff y2 out).mpr h3) }
  exact exec_extract_stores hs ((extractBody_eq_ok_iff ha).mpr ⟨_, y1, y2, out, hsteps, rfl⟩)

/-- Settles O34: the rule at each step that fails; the stored envelope has no negative element, so its mean is removed
without overflow. -/
theorem extractReportsTheFailingStep : Obligations.ExtractReportsTheFailingStep := by
  intro d a ch s rate chan xs low high hs ha hlow hhigh h0 hlt hny hodd hmax
  have hchecks := designChecks_of_passed hlow hhigh h0 hlt hny hodd hmax
  refine ⟨fun hshort => exec_fails_of_rule_eq_failAt hs (extractBody_of_short ha hchecks hshort),
    fun coef hlen hcoef => ?_⟩
  have hdesigned := designed_of_passed hlow hhigh h0 hlt hny hodd hmax hcoef
  have hrule := extractBody_of_designed (d := d) (ch := ch) ha hdesigned hlen
  refine ⟨fun hov => ?_, fun y1 h1 => ?_⟩
  · rw [(rndRats_same_eq_none_iff xs coef).mpr hov] at hrule
    exact exec_fails_of_rule_eq_failAt hs hrule
  rw [(rndRats_same_eq_some_iff xs coef y1).mpr h1, orOverflow_some, except_bind_ok] at hrule
  refine ⟨fun hov => ?_, fun hfits => ?_⟩
  · rw [(rndAll_eq_none_iff _).mpr hov] at hrule
    exact exec_fails_of_rule_eq_failAt hs hrule
  · obtain ⟨y2, h2⟩ := exists_rndAll_eq_some hfits
    obtain ⟨out, hout⟩ := exists_removeMean_of_nonneg fun v hv => ⟨isF_of_rndAll h2 v hv, rndAll_numHenv_nonneg h2 v hv⟩
    rw [h2, orOverflow_some, except_bind_ok, hout, except_bind_ok] at hrule
    exact ⟨_, exec_of_rule_eq_ok hs hrule, rfl⟩

end Sys2Proof.Machine
end

section
/-! PROOFS. `EXTRACT` and the four commands it stands for (45_channel_extractor.md R244): each succeeds exactly when its
step of `EXTRACT` gives a result, which it stores. -/

namespace Sys2Proof.Machine

open Sys2Proof.Safety

/-! ### When a command succeeds -/

/-- No rule fails without a reason (60_exceptions.md R283). -/
theorem namesReason_rule (i : Instr) (s : State) : NamesReason (rule i s) := by
  intro f hf
  obtain ⟨f', hf', hx, -⟩ | ⟨g, -, hx, -⟩ := rule_sameAnswer s s.err s.sticky s.degen s.errInfo i
  · obtain rfl := Except.error.inj (hf.symm.trans hx)
    exact hf'
  · cases hf.symm.trans hx

/-- A command succeeds exactly when its rule gives a state, which is then the one it leaves, but for `ERR`. -/
theorem err_eq_ok_iff {i : Instr} {s t : State} (h : exec i s = .next t) (hs : i.slotsExist s.par.nslot = true) :
    t.err = .ok ↔ ∃ u, rule i s = .ok u ∧ t = recordSuccess u := by
  constructor
  · intro herr
    obtain ⟨hs', -⟩ | ⟨-, f, hf, rfl⟩ | ⟨-, u, hu, rfl⟩ := runCommand_cases ((exec_eq_runCommand_rule i s).symm.trans h)
    · cases hs.symm.trans hs'
    · exact absurd ((Reason.errClass_eq_ok_iff _).mp herr) (namesReason_rule i s f hf)
    · exact ⟨u, hu, rfl⟩
  · rintro ⟨u, -, rfl⟩; rfl

/-- A command whose rule, when it gives a state, writes some `y` with the property `P` to its destination: its success
shows that there is such a `y`, and such a `y` is what it has stored. -/
theorem exec_of_rule_stores_real {i : Instr} {d : SlotIx} {s t : State} {rate : Rat} {chan : BitVec 2}
    {P : List Rat → Prop} (h : exec i s = .next t) (hs : i.slotsExist s.par.nslot = true) (hdst : i.dst = some d)
    (hfilter : i.designsFilter = false) (himage : ¬ ∃ d a c, i = .formimg d a c)
    (hrule : ∀ w, rule i s = .ok w ↔ ∃ y, P y ∧ writeSignal d rate chan (.real y) s = w) :
    (t.err = .ok → ∃ y, P y) ∧ ∀ y, P y →
      Stores d (.signal { rate := rate, chan := chan, data := .real y }) s t ∧ t.fspec = s.fspec := by
  refine ⟨fun herr => ?_, fun y hy => ?_⟩
  · obtain ⟨w, hw, -⟩ := (err_eq_ok_iff h hs).mp herr
    obtain ⟨y, hy, -⟩ := (hrule w).mp hw
    exact ⟨y, hy⟩
  · obtain ⟨t', ht', hstores, hfspec, -⟩ :=
      exec_stores_of_rule_eq_ok hs hdst hfilter himage ((hrule _).mpr ⟨y, hy, rfl⟩)
    obtain rfl := Host.Outcome.next.inj (h.symm.trans ht')
    exact ⟨hstores, hfspec⟩

/-- A command with two slot fields, both naming slots that exist. -/
theorem slotsExist_of_two_slotFields {i : Instr} {d a : SlotIx} {n : Nat} (hi : i.slotFields = [d, a]) (hd : d.toNat < n)
    (ha : a.toNat < n) : i.slotsExist n = true := by
  simp [Instr.slotsExist, hi, hd, ha]

/-! ### The four commands and `EXTRACT` on a REAL source -/

section Commands
variable {d a : SlotIx} {s t : State} {rate : Rat} {chan : BitVec 2} {xs : List Rat}
  (hd : d.toNat < s.par.nslot) (ha : a.toNat < s.par.nslot)
  (hsrc : slotAt s a = .valid (.signal { rate := rate, chan := chan, data := .real xs }))
include ha hsrc

theorem exec_bpdesign_success (h : exec (.bpdesign a) s = .next t) :
    (t.err = .ok → ∃ f, Designed s rate f) ∧ ∀ f, Designed s rate f → t = recordSuccess (setFilter f s) := by
  have hs : (Instr.bpdesign a).slotsExist s.par.nslot = true := slotsExist_of_slotFields rfl ha
  refine ⟨fun herr => ?_, fun f ⟨low, high, taps, hchecks, hf⟩ => ?_⟩
  · obtain ⟨w, hw, -⟩ := (err_eq_ok_iff h hs).mp herr
    simp only [rule, bpdesignBody, (srcSignal_eq_ok_iff _ _ _).mpr hsrc, except_bind_ok, except_bind_eq_ok_iff,
      Prod.exists] at hw
    obtain ⟨low, high, taps, hchecks, f, hf, -⟩ := hw
    exact ⟨f, low, high, taps, hchecks, hf⟩
  · exact Host.Outcome.next.inj (h.symm.trans (exec_of_rule_eq_ok hs (bpdesignBody_of_designed hsrc hchecks hf)))

include hd

theorem exec_bpapply_success (hvalid : s.fspec.valid = true) (hfs : s.fspec.fs = rate)
    (h : exec (.bpapply d a) s = .next t) :
    (t.err = .ok → ∃ y, s.fspec.taps ≤ xs.length ∧ rndRats (same xs s.fspec.coef) = some y)
    ∧ ∀ y, s.fspec.taps ≤ xs.length ∧ rndRats (same xs s.fspec.coef) = some y →
      Stores d (.signal { rate := rate, chan := chan, data := .real y }) s t ∧ t.fspec = s.fspec := by
  refine exec_of_rule_stores_real h (slotsExist_of_two_slotFields rfl hd ha) rfl rfl (by simp) fun w => ?_
  show _ ↔ ∃ y, (s.fspec.taps ≤ (Samples.real xs).length ∧ _) ∧ _
  simp only [rule, bpapplyBody, (srcSignal_eq_ok_iff _ _ _).mpr hsrc, except_bind_ok, except_bind_eq_ok_iff,
    failIf_eq_ok_iff, hvalid, hfs, Bool.not_true, ne_eq, not_true, decide_false, true_and, exists_const,
    decide_eq_false_iff_not, not_lt, applyFilter, mapParts, orOverflow_eq_ok_iff, Option.map_eq_some_iff,
    except_pure_eq_ok_iff, exists_exists_and_eq_and, and_assoc, exists_and_left]

theorem exec_demod_success (h : exec (.demod d a) s = .next t) :
    (t.err = .ok → ∃ y, rndAll (numHenv s.par xs) = some y) ∧ ∀ y, rndAll (numHenv s.par xs) = some y →
      Stores d (.signal { rate := rate, chan := chan, data := .real y }) s t ∧ t.fspec = s.fspec := by
  refine exec_of_rule_stores_real h (slotsExist_of_two_slotFields rfl hd ha) rfl rfl (by simp) fun w => ?_
  simp only [rule, demodBody, (srcSignal_eq_ok_iff _ _ _).mpr hsrc, except_bind_ok, except_bind_eq_ok_iff,
    storedEnvelope, envelope, orOverflow_eq_ok_iff, except_pure_eq_ok_iff]

theorem exec_dcrem_success (h : exec (.dcrem d a) s = .next t) :
    (t.err = .ok → ∃ y, removeMean xs = .ok y) ∧ ∀ y, removeMean xs = .ok y →
      Stores d (.signal { rate := rate, chan := chan, data := .real y }) s t ∧ t.fspec = s.fspec := by
  refine exec_of_rule_stores_real h (slotsExist_of_two_slotFields rfl hd ha) rfl rfl (by simp) fun w => ?_
  simp only [rule, dcremBody, (srcReal_eq_ok_iff _ _ _ _).mpr ⟨hsrc, rfl⟩, except_bind_ok, except_bind_eq_ok_iff,
    except_pure_eq_ok_iff]

theorem exec_extract_success {ch : BitVec 2} (h : exec (.extract d a ch) s = .next t) :
    (t.err = .ok → ∃ f y1 y2 out, Extraction s rate xs f y1 y2 out) ∧ ∀ f y1 y2 out, Extraction s rate xs f y1 y2 out →
      Stores d (.signal { rate := rate, chan := ch, data := .real out }) s t ∧ t.fspec = f := by
  have hs : (Instr.extract d a ch).slotsExist s.par.nslot = true := slotsExist_of_two_slotFields rfl hd ha
  refine ⟨fun herr => ?_, fun f y1 y2 out hsteps => ?_⟩
  · obtain ⟨w, hw, -⟩ := (err_eq_ok_iff h hs).mp herr
    obtain ⟨f, y1, y2, out, hsteps, -⟩ := (extractBody_eq_ok_iff hsrc).mp hw
    exact ⟨f, y1, y2, out, hsteps⟩
  · obtain ⟨t', ht', hstores, hfspec, -⟩ :=
      exec_extract_stores hs ((extractBody_eq_ok_iff hsrc).mpr ⟨f, y1, y2, out, hsteps, rfl⟩)
    obtain rfl := Host.Outcome.next.inj (h.symm.trans ht')
    exact ⟨hstores, hfspec⟩

end Commands

/-! ### The sequence -/

section Sequence
variable {d a u v : SlotIx} {s s1 s2 s3 s4 : State} {rate : Rat} {chan : BitVec 2} {xs : List Rat}
  (hd : d.toNat < s.par.nslot) (ha : a.toNat < s.par.nslot) (hu : u.toNat < s.par.nslot) (hv : v.toNat < s.par.nslot)
  (hsrc : slotAt s a = .valid (.signal { rate := rate, chan := chan, data := .real xs }))
  (h1 : exec (.bpdesign a) s = .next s1) (h2 : exec (.bpapply u a) s1 = .next s2)
  (h3 : exec (.demod v u) s2 = .next s3) (h4 : exec (.dcrem d v) s3 = .next s4)
include hd ha hu hv hsrc h1 h2 h3 h4

/-- When the steps of `EXTRACT` give a result, each of the four commands stores its part of it. -/
theorem sequence_stores_of_extraction {f : FilterSpec} {y1 y2 out : List Rat} (h : Extraction s rate xs f y1 y2 out) :
    (s1.err = .ok ∧ s2.err = .ok ∧ s3.err = .ok ∧ s4.err = .ok) ∧ s4.fspec = f
      ∧ slotAt s4 d = .valid (.signal { rate := rate, chan := chan, data := .real out }) := by
  obtain ⟨hf, hlen, hy1, hy2, hout⟩ := h
  obtain ⟨hvalid, hfs⟩ := hf.valid_fs
  obtain rfl := (exec_bpdesign_success ha hsrc h1).2 f hf
  obtain ⟨st2, f2⟩ :=
    (exec_bpapply_success (s := recordSuccess (setFilter f s)) hu ha hsrc hvalid hfs h2).2 y1 ⟨hlen, hy1⟩
  have p2 : s2.par = s.par := st2.rest.par
  obtain ⟨st3, f3⟩ := (exec_demod_success (by rwa [p2]) (by rwa [p2]) st2.stored h3).2 y2 (by rwa [p2])
  have p3 : s3.par = s.par := st3.rest.par.trans p2
  obtain ⟨st4, f4⟩ := (exec_dcrem_success (by rwa [p3]) (by rwa [p3]) st3.stored h4).2 out hout
  exact ⟨⟨rfl, st2.err, st3.err, st4.err⟩, f4.trans (f3.trans f2), st4.stored⟩

/-- When each of the four commands succeeds, the steps of `EXTRACT` give a result. -/
theorem extraction_of_sequence (e1 : s1.err = .ok) (e2 : s2.err = .ok) (e3 : s3.err = .ok) (e4 : s4.err = .ok) :
    ∃ f y1 y2 out, Extraction s rate xs f y1 y2 out := by
  obtain ⟨f, hf⟩ := (exec_bpdesign_success ha hsrc h1).1 e1
  obtain ⟨hvalid, hfs⟩ := hf.valid_fs
  obtain rfl := (exec_bpdesign_success ha hsrc h1).2 f hf
  have hbpapply := exec_bpapply_success (s := recordSuccess (setFilter f s)) hu ha hsrc hvalid hfs h2
  obtain ⟨y1, hlen, hy1⟩ := hbpapply.1 e2
  obtain ⟨st2, -⟩ := hbpapply.2 y1 ⟨hlen, hy1⟩
  have p2 : s2.par = s.par := st2.rest.par
  have hdemod := exec_demod_success (by rwa [p2]) (by rwa [p2]) st2.stored h3
  obtain ⟨y2, hy2⟩ := hdemod.1 e3
  obtain ⟨st3, -⟩ := hdemod.2 y2 hy2
  have p3 : s3.par = s.par := st3.rest.par.trans p2
  obtain ⟨out, hout⟩ := (exec_dcrem_success (by rwa [p3]) (by rwa [p3]) st3.stored h4).1 e4
  exact ⟨f, y1, y2, out, hf, hlen, hy1, p2 ▸ hy2, hout⟩

end Sequence

/-- Settles O33: `EXTRACT` and the sequence both succeed exactly when the steps give a result, and both store it. -/
theorem extractEqualsTheFourCommands : Obligations.ExtractEqualsTheFourCommands := by
  intro d a u v ch s s1 s2 s3 s4 t rate chan xs hd ha hu hv hsrc h1 h2 h3 h4 ht
  obtain ⟨hsteps, hstores⟩ := exec_extract_success hd ha hsrc ht
  refine ⟨⟨fun herr => ?_, fun ⟨e1, e2, e3, e4⟩ => ?_⟩, fun herr => ?_⟩
  · obtain ⟨f, y1, y2, out, h⟩ := hsteps herr
    exact (sequence_stores_of_extraction hd ha hu hv hsrc h1 h2 h3 h4 h).1
  · obtain ⟨f, y1, y2, out, h⟩ := extraction_of_sequence hd ha hu hv hsrc h1 h2 h3 h4 e1 e2 e3 e4
    exact (hstores f y1 y2 out h).1.err
  · obtain ⟨f, y1, y2, out, h⟩ := hsteps herr
    obtain ⟨-, hfspec, hslot⟩ := sequence_stores_of_extraction hd ha hu hv hsrc h1 h2 h3 h4 h
    obtain ⟨hstored, hfspec'⟩ := hstores f y1 y2 out h
    exact ⟨hfspec'.trans hfspec.symm, chan, out, hslot, hstored.stored⟩

end Sys2Proof.Machine
end

section
/-! PROOFS. The channel tag is metadata only (45_channel_extractor.md R243): the rule of every command, run on the state
with every tag cleared, answers the same but for the tags. -/

namespace Sys2Proof.Machine

open Sys2Proof.Safety

/-! ### A state with its tags cleared -/

/-- A signal buffer with its channel tag cleared. -/
def Signal.clearChan (b : Signal) : Signal := { b with chan := 0#2 }

@[simp] theorem Signal.clearChan_clearChan (b : Signal) : b.clearChan.clearChan = b.clearChan := rfl

@[simp] theorem eraseChan_opened (b : Signal) : eraseChan (.opened b) = .opened b.clearChan := rfl

@[simp] theorem eraseChan_valid_signal (b : Signal) : eraseChan (.valid (.signal b)) = .valid (.signal b.clearChan) :=
  rfl

@[simp] theorem eraseChan_eraseChan (x : Slot) : eraseChan (eraseChan x) = eraseChan x := by
  cases x with
  | empty => rfl
  | opened b => rfl
  | valid c => cases c <;> rfl

@[simp] theorem eraseChans_eraseChans (s : State) : eraseChans (eraseChans s) = eraseChans s := by
  simp [eraseChans, Function.comp_def]

@[simp] theorem eraseChans_openV (s : State) : (eraseChans s).openV = s.openV := rfl

@[simp] theorem eraseChans_openSlot (s : State) : (eraseChans s).openSlot = s.openSlot := rfl

@[simp] theorem eraseChans_wpend (s : State) : (eraseChans s).wpend = s.wpend := rfl

theorem slotAt_eraseChans (s : State) (i : SlotIx) : slotAt (eraseChans s) i = eraseChan (slotAt s i) := by
  unfold slotAt
  show (if i.toNat < s.par.nslot then (s.slots.map eraseChan)[i.toNat] else .empty) = _
  split
  · exact Vector.getElem_map ..
  · rfl

/-! ### The updates, on a state with its tags cleared -/

@[simp] theorem eraseChans_setSlot (d : SlotIx) (v : Slot) (s : State) :
    eraseChans (setSlot d v s) = setSlot d (eraseChan v) (eraseChans s) := by
  simp [eraseChans, setSlot, Vector.map_set]

@[simp] theorem eraseChans_releaseLoad (s : State) : eraseChans (releaseLoad s) = releaseLoad (eraseChans s) := rfl

@[simp] theorem eraseChans_claimLoad (d : SlotIx) (s : State) : eraseChans (claimLoad d s) = claimLoad d (eraseChans s) :=
  rfl

@[simp] theorem eraseChans_setFilter (f : FilterSpec) (s : State) :
    eraseChans (setFilter f s) = setFilter f (eraseChans s) := rfl

@[simp] theorem eraseChans_dropFilter (s : State) : eraseChans (dropFilter s) = dropFilter (eraseChans s) := rfl

@[simp] theorem eraseChans_raiseDegen (s : State) : eraseChans (raiseDegen s) = raiseDegen (eraseChans s) := rfl

@[simp] theorem eraseChans_recordSuccess (s : State) : eraseChans (recordSuccess s) = recordSuccess (eraseChans s) := rfl

@[simp] theorem eraseChans_writeSlot (d : SlotIx) (v : Slot) (s : State) :
    eraseChans (writeSlot d v s) = writeSlot d (eraseChan v) (eraseChans s) := by
  unfold writeSlot
  rw [apply_ite eraseChans, eraseChans_releaseLoad, eraseChans_setSlot]
  rfl

@[simp] theorem eraseChans_invalidate (i : Instr) (s : State) :
    eraseChans (invalidate i s) = invalidate i (eraseChans s) := by
  unfold invalidate
  cases i.dst with
  | none => dsimp only; rw [apply_ite eraseChans, eraseChans_dropFilter]
  | some d => dsimp only; rw [apply_ite eraseChans, eraseChans_dropFilter, eraseChans_writeSlot]; rfl

@[simp] theorem eraseChans_takeFailure (i : Instr) (f : Failure) (s : State) :
    eraseChans (takeFailure i f s) = takeFailure i f (eraseChans s) :=
  congrArg (recordFailure i.op.code f.stage f.reason) (eraseChans_invalidate i s)

@[simp] theorem eraseChans_takeDecodeFailure (opc : BitVec 8) (r : Reason) (s : State) :
    eraseChans (takeDecodeFailure opc r s) = takeDecodeFailure opc r (eraseChans s) := rfl

/-! ### The operands, on a state with its tags cleared -/

theorem srcSignal_eraseChans (s : State) (a : SlotIx) :
    srcSignal (eraseChans s) a = Signal.clearChan <$> srcSignal s a := by
  unfold srcSignal srcBuffer
  rw [slotAt_eraseChans]
  cases slotAt s a with
  | empty => rfl
  | opened b => rfl
  | valid c => cases c <;> rfl

theorem srcReal_eraseChans (s : State) (a : SlotIx) :
    srcReal (eraseChans s) a = Prod.map Signal.clearChan id <$> srcReal s a := by
  unfold srcReal
  rw [srcSignal_eraseChans]
  cases srcSignal s a with
  | error e => rfl
  | ok b =>
    show (asReal b.data >>= fun xs => pure (b.clearChan, xs)) = _ <$> (asReal b.data >>= fun xs => pure (b, xs))
    cases asReal b.data <;> rfl

theorem srcImages_eraseChans (s : State) (a b : SlotIx) : srcImages (eraseChans s) a b = srcImages s a b := by
  unfold srcImages srcBuffer
  rw [slotAt_eraseChans, slotAt_eraseChans]
  cases slotAt s a with
  | empty => rfl
  | opened p => rfl
  | valid p =>
    cases slotAt s b with
    | empty => cases p <;> rfl
    | opened q => cases p <;> rfl
    | valid q => cases p <;> cases q <;> rfl

theorem openBuffer_eraseChans (s : State) : openBuffer (eraseChans s) = (openBuffer s).map Signal.clearChan := by
  unfold openBuffer
  rw [eraseChans_openV, eraseChans_openSlot, slotAt_eraseChans]
  cases s.openV with
  | false => rfl
  | true =>
    cases slotAt s s.openSlot with
    | empty => rfl
    | opened b => rfl
    | valid c => cases c <;> rfl

/-! ### Rules that answer the same but for the tags -/

/-- The answers of two rules agree once the tags are cleared. -/
def SameButTags (x x' : Except Failure State) : Prop := eraseChans <$> x = eraseChans <$> x'

theorem SameButTags.refl (x : Except Failure State) : SameButTags x x := rfl

theorem SameButTags.ok {u u' : State} (h : eraseChans u = eraseChans u') : SameButTags (.ok u) (.ok u') :=
  congrArg Except.ok h

/-- Two rules that begin with computations whose values `g` relates. -/
theorem SameButTags.bind_map {α α' : Type} {x : Except Failure α} {x' : Except Failure α'} {g : α → α'}
    {f : α → Except Failure State} {f' : α' → Except Failure State} (hx : x' = g <$> x)
    (h : ∀ v, SameButTags (f v) (f' (g v))) : SameButTags (x >>= f) (x' >>= f') := by
  subst hx
  cases x with
  | error e => exact .refl _
  | ok v => exact h v

/-- Two rules that begin with the same computation. -/
theorem SameButTags.bind {α : Type} {x : Except Failure α} {f f' : α → Except Failure State}
    (h : ∀ v, SameButTags (f v) (f' v)) : SameButTags (x >>= f) (x >>= f') :=
  bind_map (id_map x).symm h

/-- Rules that write a slot, with one content but for its tag. -/
theorem SameButTags.stores {s : State} {d : SlotIx} {v v' : Slot} (h : eraseChan v = eraseChan v') :
    SameButTags (.ok (writeSlot d v s)) (.ok (writeSlot d v' (eraseChans s))) := .ok (by simp [h])

theorem bcloseBody_sameButTags (s : State) : SameButTags (bcloseBody s) (bcloseBody (eraseChans s)) := by
  unfold bcloseBody
  rw [openBuffer_eraseChans, eraseChans_wpend, eraseChans_openSlot]
  cases openBuffer s with
  | none => exact .refl _
  | some b =>
    dsimp only [Option.map_some]
    split
    · exact .refl _
    · exact .ok (by simp)

/-- `EXTRACT` with any two tags. -/
theorem extractBody_sameButTags (d a : SlotIx) (ch ch' : BitVec 2) (s : State) :
    SameButTags (extractBody d a ch s) (extractBody d a ch' (eraseChans s)) :=
  .bind_map (srcReal_eraseChans s a) fun (_, _) => .bind fun (_, _, _) => .bind fun _ => .bind fun f => .bind fun _ =>
    .bind fun _ => .bind fun _ => .stores (s := setFilter f s) rfl

theorem image_sameButTags (s : State) (d : SlotIx) (im : Buffer) (flat : Bool) :
    SameButTags (.ok (if flat then raiseDegen (writeBuffer d im s) else writeBuffer d im s))
      (.ok (if flat then raiseDegen (writeBuffer d im (eraseChans s)) else writeBuffer d im (eraseChans s))) := by
  cases flat <;> exact .ok (by simp [writeBuffer])

/-- The rule of every command. -/
theorem rule_sameButTags (i : Instr) (s : State) : SameButTags (rule i s) (rule i (eraseChans s)) := by
  cases i with
  | nop => exact .ok (eraseChans_eraseChans s).symm
  | bopen d kind => exact .bind fun _ => .bind fun _ => .bind fun _ => .ok (by simp)
  | bclose => exact bcloseBody_sameButTags s
  | bfree d => exact .stores rfl
  | demod d a => exact .bind_map (srcSignal_eraseChans s a) fun _ => .bind fun _ => .stores rfl
  | dcrem d a => exact .bind_map (srcReal_eraseChans s a) fun (_, _) => .bind fun _ => .stores rfl
  | decim d a =>
    exact .bind_map (srcSignal_eraseChans s a) fun _ => .bind fun _ => .bind fun _ => .bind fun _ => .bind fun _ =>
      .bind fun _ => .bind fun _ => .stores rfl
  | resamp d a =>
    exact .bind_map (srcReal_eraseChans s a) fun (_, _) => .bind fun _ => .bind fun _ => .bind fun _ => .bind fun _ =>
      .bind fun _ => .stores rfl
  | bpdesign a =>
    exact .bind_map (srcSignal_eraseChans s a) fun _ => .bind fun (_, _, _) => .bind fun _ => .ok (by simp)
  | bpapply d a =>
    exact .bind_map (srcSignal_eraseChans s a) fun _ => .bind fun _ => .bind fun _ => .bind fun _ => .bind fun _ =>
      .stores rfl
  | agc d a =>
    exact .bind_map (srcSignal_eraseChans s a) fun _ => .bind fun _ => .bind fun _ => .bind fun _ => .stores rfl
  | extract d a ch => exact extractBody_sameButTags d a ch ch s
  | formimg d a c =>
    exact .bind_map (srcReal_eraseChans s a) fun (_, _) => .bind fun _ => .bind fun _ => image_sameButTags s d _ _
  | combine d a b =>
    exact .bind_map ((srcImages_eraseChans s a b).trans (id_map _).symm) fun (_, _) => .bind fun _ => .stores rfl

/-! ### The outcome of a command -/

theorem commandResult_sameButTags (i : Instr) {s s' : State} {x x' : Except Failure State}
    (hs : eraseChans s = eraseChans s') (h : SameButTags x x') :
    eraseChans (commandResult i s x) = eraseChans (commandResult i s' x') := by
  have hpar : s.par = s'.par := show (eraseChans s).par = (eraseChans s').par by rw [hs]
  unfold commandResult
  rw [hpar]
  split
  · cases x with
    | error f =>
      cases x' with
      | error f' =>
        obtain rfl := Except.error.inj h
        simp [hs]
      | ok u' => cases h
    | ok u =>
      cases x' with
      | error f' => cases h
      | ok u' =>
        have hu : eraseChans u = eraseChans u' := Except.ok.inj h
        simp [hu]
  · simp [hs]

theorem exec_eq_next_commandResult (i : Instr) (s : State) : exec i s = .next (commandResult i s (rule i s)) :=
  (exec_eq_runCommand_rule i s).trans (runCommand_next i s _)

/-- Apart from what its rule answers, `EXTRACT` does the same whatever tag it is given. -/
theorem commandResult_extract_chan (d a : SlotIx) (c c' : BitVec 2) (s : State) (x : Except Failure State) :
    commandResult (.extract d a c) s x = commandResult (.extract d a c') s x := rfl

/-- Settles O35: the rules of the runs compared answer the same but for the tags, and so the runs end the same. -/
theorem channelTagNeverReachesData : Obligations.ChannelTagNeverReachesData := by
  refine ⟨fun i s t h => ?_, fun d a c1 c2 s t1 t2 h1 h2 => ?_⟩
  · obtain rfl := Host.Outcome.next.inj ((exec_eq_next_commandResult i s).symm.trans h)
    exact ⟨_, exec_eq_next_commandResult i (eraseChans s),
      (commandResult_sameButTags i (eraseChans_eraseChans s).symm (rule_sameButTags i s)).symm⟩
  · obtain rfl := Host.Outcome.next.inj ((exec_eq_next_commandResult _ s).symm.trans h1)
    obtain rfl := Host.Outcome.next.inj ((exec_eq_next_commandResult _ s).symm.trans h2)
    have hrules : SameButTags (extractBody d a c1 s) (extractBody d a c2 s) :=
      (extractBody_sameButTags d a c1 c1 s).trans (extractBody_sameButTags d a c2 c1 s).symm
    rw [commandResult_extract_chan d a c2 c1]
    exact commandResult_sameButTags _ rfl hrules

end Sys2Proof.Machine
end

section
/-! PROOFS. `RESAMP` (46_pixel_resampler.md R250 to R252): its rule check by check, and the pixel stream it stores. -/

namespace Sys2Proof.Machine

open Sys2Proof.Safety

/-! ### The length of the pixel stream (R252) -/

theorem resampleLength_eq_of_rhe {n mout : Nat} {pr fs : Rat} (h : (mout : Int) = rhe ((n : Rat) * pr / fs)) :
    resampleLength n pr fs = mout := by
  rw [resampleLength, ← h, Int.toNat_natCast]

theorem lt_resampleLength_iff {n m : Nat} {pr fs : Rat} :
    m < resampleLength n pr fs ↔ (m : Int) < rhe ((n : Rat) * pr / fs) :=
  Int.lt_toNat

/-! ### The rule, check by check (R251) -/

section Resamp
variable {d a : SlotIx} {s : State} {b : Signal} {xs : List Rat} {line pr : Rat}

theorem resampBody_of_nonfinite (ha : srcReal s a = .ok (b, xs)) (hline : dec s.cfg.decLineRate = none) :
    resampBody d a s = failAt .resamp .cfgNonfinite := by
  simp [resampBody, ha, cfgFloat_of_nonfinite hline]

theorem resampBody_of_nonpos (ha : srcReal s a = .ok (b, xs)) (hline : dec s.cfg.decLineRate = some line)
    (hnonpos : line * (s.cfg.decPixelsPerLine.toNat : Rat) ≤ 0) : resampBody d a s = failAt .resamp .rateNonpos := by
  simp [resampBody, ha, (cfgFloat_eq_ok_iff _ _ _).mpr hline, hnonpos]

theorem resampBody_of_rate_overflow (ha : srcReal s a = .ok (b, xs)) (hline : dec s.cfg.decLineRate = some line)
    (hpos : 0 < line * (s.cfg.decPixelsPerLine.toNat : Rat))
    (hpr : rndRat (line * (s.cfg.decPixelsPerLine.toNat : Rat)) = none) :
    resampBody d a s = failAt .resamp .overflow := by
  simp [resampBody, ha, (cfgFloat_eq_ok_iff _ _ _).mpr hline, not_le.mpr hpos, hpr]

/-- With the pixel rate known, the length is checked, and then only the pixels can still overflow. -/
theorem resampBody_of_rate (ha : srcReal s a = .ok (b, xs)) (hline : dec s.cfg.decLineRate = some line)
    (hpos : 0 < line * (s.cfg.decPixelsPerLine.toNat : Rat))
    (hpr : rndRat (line * (s.cfg.decPixelsPerLine.toNat : Rat)) = some pr) :
    resampBody d a s =
      if s.par.maxlen < resampleLength xs.length pr b.rate then failAt .resamp .capacity
      else (fun out => writeSignal d pr b.chan (.real out) s) <$>
        orOverflow .resamp (rndAll (numResample s.par xs b.rate pr (resampleLength xs.length pr b.rate))) := by
  by_cases hlong : s.par.maxlen < resampleLength xs.length pr b.rate <;>
    simp [resampBody, ha, (cfgFloat_eq_ok_iff _ _ _).mpr hline, not_le.mpr hpos, hpr, hlong]

end Resamp

/-- Settles O22: the checks of the rule one by one, the last of them a check of the length. -/
theorem resampChecksInOrder : Obligations.ResampChecksInOrder := by
  intro d a s rate chan xs hs ha
  have hsrc := (srcReal_eq_ok_iff s a _ xs).mpr ⟨ha, rfl⟩
  refine ⟨fun hline => exec_fails_of_rule_eq_failAt hs (resampBody_of_nonfinite hsrc hline), fun line hline =>
    ⟨fun hnonpos => ?_, fun hpos hov => ?_, fun pr hpos hpr hlen => ?_⟩⟩
  · exact exec_fails_of_rule_eq_failAt hs (resampBody_of_nonpos hsrc hline hnonpos)
  · exact exec_fails_of_rule_eq_failAt hs (resampBody_of_rate_overflow hsrc hline hpos hov)
  · exact exec_fails_of_rule_eq_failAt hs
      ((resampBody_of_rate hsrc hline hpos hpr).trans (if_pos (lt_resampleLength_iff.mpr hlen)))

/-- Settles O21: with the checks passed the rule stores the rounded values of `NUM.resample`, or fails when one of them
overflows. -/
theorem resampStoresThePixelStream : Obligations.ResampStoresThePixelStream := by
  intro d a s rate chan xs line pr mout hs ha hline hpos hpr hmout hlen
  have hrule : rule (.resamp d a) s = _ :=
    resampBody_of_rate ((srcReal_eq_ok_iff s a _ xs).mpr ⟨ha, rfl⟩) hline hpos hpr
  rw [resampleLength_eq_of_rhe hmout, if_neg (not_lt.mpr hlen)] at hrule
  refine ⟨fun hfits => ?_, fun hov => ?_⟩
  · obtain ⟨out, hout⟩ := exists_rndAll_eq_some hfits
    rw [hout] at hrule
    obtain ⟨t, ht, hstores, hfspec, hdegen⟩ := exec_stores_of_rule_eq_ok hs rfl rfl (by simp) hrule
    exact ⟨t, out, ht, hstores, hfspec, hdegen, (rndAll_length hout).trans (numResample_length ..),
      fun _ _ hy => getElem?_of_rndAll hout hy⟩
  · rw [(rndAll_eq_none_iff _).mpr hov] at hrule
    exact exec_fails_of_rule_eq_failAt hs hrule

end Sys2Proof.Machine
end

section
/-! PROOFS. `FORMIMG` and `COMBINE` (47_raster_formatter.md R260 to R267): the extremes and the pixels of the used samples,
and the rules of the two commands, check by check. -/

namespace Sys2Proof.Machine

open Sys2Proof.Safety

/-! ### The extremes of the used samples (R263) -/

section Extremes
variable {used : List Rat} {lo hi : Rat}

theorem min?_eq_some_minR (h : used ≠ []) : used.min? = some (minR used) := by
  have hmin : (fun a b : Rat => if b < a then b else a) = min := by
    funext a b
    rw [min_comm, min_def_lt]
  cases used with
  | nil => exact absurd rfl h
  | cons v vs => rw [minR, hmin, List.min?_cons', List.headD_cons, List.tail_cons]

theorem max?_eq_some_maxR (h : used ≠ []) : used.max? = some (maxR used) := by
  have hmax : (fun a b : Rat => if a < b then b else a) = max := by
    funext a b
    rw [max_def_lt]
  cases used with
  | nil => exact absurd rfl h
  | cons v vs => rw [maxR, hmax, List.max?_cons', List.headD_cons, List.tail_cons]

theorem minR_eq_iff (h : used ≠ []) : minR used = lo ↔ lo ∈ used ∧ ∀ v ∈ used, lo ≤ v := by
  rw [← List.min?_eq_some_iff, min?_eq_some_minR h, Option.some.injEq]

theorem maxR_eq_iff (h : used ≠ []) : maxR used = hi ↔ hi ∈ used ∧ ∀ v ∈ used, v ≤ hi := by
  rw [← List.max?_eq_some_iff, max?_eq_some_maxR h, Option.some.injEq]

end Extremes

/-! ### Pixels (R263, R264) -/

section Pixels
variable {used : List Rat} {lo hi v : Rat}

theorem pixel_toNat {n : Nat} (h : n ≤ 255) : (pixel n).toNat = n := by
  rw [pixel, BitVec.toNat_ofNat, Nat.mod_eq_of_lt (by omega)]

theorem normalise_cast (hlt : lo < hi) (hv : lo ≤ v) :
    (normalise lo hi v : Int) = ((v - lo) * 255 / (hi - lo)).floor := by
  have hnonneg : 0 ≤ (v - lo) * 255 / (hi - lo) :=
    div_nonneg (mul_nonneg (sub_nonneg.mpr hv) (by norm_num)) (sub_pos.mpr hlt).le
  exact Int.toNat_of_nonneg (Rat.le_floor_iff.mpr (by simpa using hnonneg))

theorem normalise_le (hlt : lo < hi) (hv : v ≤ hi) : normalise lo hi v ≤ 255 := by
  have hle : (v - lo) * 255 / (hi - lo) ≤ 255 := by
    rw [div_le_iff₀ (sub_pos.mpr hlt)]
    linarith
  have hfloor : ((v - lo) * 255 / (hi - lo)).floor < 256 := Rat.floor_lt_iff.mpr (hle.trans_lt (by norm_num))
  rw [normalise]
  omega

/-- The smallest sample becomes 0. -/
theorem normalise_min (lo hi : Rat) : normalise lo hi lo = 0 := by
  rw [normalise, sub_self, zero_mul, zero_div]
  rfl

/-- The largest sample becomes 255. -/
theorem normalise_max (hlt : lo < hi) : normalise lo hi hi = 255 := by
  rw [normalise, mul_div_cancel_left₀ _ (sub_pos.mpr hlt).ne']
  rfl

/-- Integers in 0..255 are normalised from the extremes 0 and 255 to themselves (R265). -/
theorem normalise_zero_255 (k : Nat) : normalise 0 255 k = k := by
  rw [normalise, sub_zero, sub_zero, mul_div_cancel_right₀ _ (by norm_num), ← Int.cast_natCast, Rat.floor_intCast,
    Int.toNat_natCast]

theorem rasterPixels_of_flat (h : isFlat used = true) : rasterPixels used = used.map fun _ => 0#8 := by
  rw [rasterPixels, if_pos h]
  rfl

theorem rasterPixels_of_not_flat (h : isFlat used = false) :
    rasterPixels used = used.map fun v => pixel (normalise (minR used) (maxR used) v) := by
  rw [rasterPixels, if_neg (by simp [h])]

end Pixels

/-- Settles O38: with the extremes 0 and 255 normalisation is the identity on integers; and of samples that are not all
equal, the smallest gives 0 and the largest 255. -/
theorem normalisationIsIdempotent : Obligations.NormalisationIsIdempotent := by
  refine ⟨fun used hint h0 h255 => ?_, fun used ⟨u, hu, v, hv, huv⟩ => ?_⟩
  · have hne : used ≠ [] := List.ne_nil_of_mem h0
    have hmin : minR used = 0 := (minR_eq_iff hne).mpr ⟨h0, fun v hv => by
      obtain ⟨k, -, rfl⟩ := hint v hv
      exact Nat.cast_nonneg k⟩
    have hmax : maxR used = 255 := (maxR_eq_iff hne).mpr ⟨h255, fun v hv => by
      obtain ⟨k, hk, rfl⟩ := hint v hv
      exact_mod_cast hk⟩
    rw [rasterPixels_of_not_flat (by simp [isFlat, hmin, hmax]), hmin, hmax, List.map_map]
    refine (List.map_congr_left (g := id) fun v hv => ?_).trans (List.map_id used)
    obtain ⟨k, hk, rfl⟩ := hint v hv
    simp [normalise_zero_255, pixel_toNat hk]
  · have hne : used ≠ [] := List.ne_nil_of_mem hu
    obtain ⟨hminmem, hminle⟩ := (minR_eq_iff hne).mp rfl
    obtain ⟨hmaxmem, hmaxle⟩ := (maxR_eq_iff hne).mp rfl
    have hlt : minR used < maxR used := (hminle u hu).trans_lt (huv.trans_le (hmaxle v hv))
    rw [rasterPixels_of_not_flat (by simp [isFlat, hlt.ne'])]
    exact ⟨List.mem_map.mpr ⟨_, hminmem, by rw [normalise_min]; rfl⟩,
      List.mem_map.mpr ⟨_, hmaxmem, by rw [normalise_max hlt]; rfl⟩⟩

/-! ### `FORMIMG`, check by check (R261) -/

section Formimg
variable {d a : SlotIx} {c : BitVec 4} {s : State} {b : Signal} {xs : List Rat}

theorem formimgBody_of_width_zero (ha : srcReal s a = .ok (b, xs)) (hw : s.cfg.decPixelsPerLine.toNat * c.toNat = 0) :
    formimgBody d a c s = failAt .formimg .lineWidth := by
  simp only [formimgBody, ha, hw, except_bind_ok, decide_true, failIf_true, failAt_bind]

theorem formimgBody_of_short (ha : srcReal s a = .ok (b, xs)) (hw : 0 < s.cfg.decPixelsPerLine.toNat * c.toNat)
    (hshort : xs.length < s.cfg.decPixelsPerLine.toNat * c.toNat) :
    formimgBody d a c s = failAt .formimg .shortLine := by
  simp only [formimgBody, ha, hw.ne', Nat.div_eq_of_lt hshort, except_bind_ok, decide_true, decide_false, failIf_true,
    failIf_false, failAt_bind]

theorem formimgBody_of_rows {wd rows : Nat} (ha : srcReal s a = .ok (b, xs))
    (hwd : wd = s.cfg.decPixelsPerLine.toNat * c.toNat) (hw : 0 < wd) (hrows : rows = xs.length / wd) (hr : 1 ≤ rows) :
    formimgBody d a c s = .ok
      (if isFlat (xs.take (rows * wd)) then
        raiseDegen (writeBuffer d (.image ⟨rows, wd, rasterPixels (xs.take (rows * wd))⟩) s)
      else writeBuffer d (.image ⟨rows, wd, rasterPixels (xs.take (rows * wd))⟩) s) := by
  have hr0 : rows ≠ 0 := by omega
  simp only [formimgBody, ha, except_bind_ok, ← hwd, ← hrows, hw.ne', hr0, decide_false, failIf_false]
  rfl

end Formimg

/-- What a command has stored once its rule has written a buffer to its destination. -/
theorem recordSuccess_writeBuffer_stores {d : SlotIx} {s : State} (hd : d.toNat < s.par.nslot) (b : Buffer) :
    Stores d b s (recordSuccess (writeBuffer d b s)) where
  stored := slotAt_writeSlot_self _ hd
  others _ hj := slotAt_writeSlot_ne _ s fun hdj => hj (congrArg some hdj)
  load := loadAfter_writeSlot d (.valid b) s
  err := rfl
  sticky := by simp [writeBuffer]
  errInfo := by simp [writeBuffer]
  rest := by constructor <;> simp [writeBuffer]

/-- `FORMIMG` with its checks passed: the image is stored, and `DEGEN` is raised if the samples are flat. -/
theorem exec_formimg_stores {d a : SlotIx} {c : BitVec 4} {s : State} {b : Signal} {xs : List Rat} {wd rows : Nat}
    (hs : (Instr.formimg d a c).slotsExist s.par.nslot = true) (ha : srcReal s a = .ok (b, xs))
    (hwd : wd = s.cfg.decPixelsPerLine.toNat * c.toNat) (hw : 0 < wd) (hrows : rows = xs.length / wd) (hr : 1 ≤ rows) :
    ∃ t, exec (.formimg d a c) s = .next t
      ∧ Stores d (.image ⟨rows, wd, rasterPixels (xs.take (rows * wd))⟩) s t ∧ t.fspec = s.fspec
      ∧ t.degen = (isFlat (xs.take (rows * wd)) || s.degen) := by
  have hbody := formimgBody_of_rows (d := d) ha hwd hw hrows hr
  have hstores := recordSuccess_writeBuffer_stores (dst_toNat_lt_of_slotsExist hs rfl)
    (.image ⟨rows, wd, rasterPixels (xs.take (rows * wd))⟩)
  refine ⟨_, exec_of_rule_eq_ok hs hbody, ?_⟩
  cases isFlat (xs.take (rows * wd)) with
  | true => exact ⟨{ hstores with rest := { hstores.rest with } }, by simp [writeBuffer], rfl⟩
  | false => exact ⟨hstores, by simp [writeBuffer], by simp [writeBuffer]⟩

/-- Settles O37: the two checks of the rule, one by one. -/
theorem formimgChecksInOrder : Obligations.FormimgChecksInOrder := by
  intro d a c s rate chan xs hs ha
  have hsrc := (srcReal_eq_ok_iff s a _ xs).mpr ⟨ha, rfl⟩
  exact ⟨fun hw => exec_fails_of_rule_eq_failAt hs (formimgBody_of_width_zero hsrc hw),
    fun hw hshort => exec_fails_of_rule_eq_failAt hs (formimgBody_of_short hsrc hw hshort)⟩

/-- Row `r`, column `col` lies within `rows` rows of width `wd`. -/
theorem row_col_lt {r col rows wd : Nat} (hr : r < rows) (hcol : col < wd) : r * wd + col < rows * wd :=
  calc r * wd + col < r * wd + wd := Nat.add_lt_add_left hcol _
    _ = (r + 1) * wd := (Nat.succ_mul r wd).symm
    _ ≤ rows * wd := Nat.mul_le_mul_right wd hr

/-- Settles O36: the rule stores the pixels of the used samples, whose extremes are the ones given, so that they are flat
exactly when those are equal. -/
theorem formimgNormalisesTheTruncatedStream : Obligations.FormimgNormalisesTheTruncatedStream := by
  intro d a c s rate chan xs wd rows lo hi hs ha hwd hw hrows hr hlo hlole hhi hhile
  obtain ⟨t, ht, hstores, hfspec, hdegen⟩ :=
    exec_formimg_stores hs ((srcReal_eq_ok_iff s a _ xs).mpr ⟨ha, rfl⟩) hwd hw hrows hr
  have hlen : rows * wd ≤ xs.length := hrows ▸ Nat.div_mul_le_self xs.length wd
  have hmin := (minR_eq_iff (List.ne_nil_of_mem hlo)).mpr ⟨hlo, hlole⟩
  have hmax := (maxR_eq_iff (List.ne_nil_of_mem hhi)).mpr ⟨hhi, hhile⟩
  have hflat : isFlat (xs.take (rows * wd)) = decide (hi = lo) := by rw [isFlat, hmin, hmax]
  refine ⟨t, _, ht, hstores, hfspec, by simp [rasterPixels_length, hlen], fun hlt => ?_, fun heq => ?_⟩
  · have hnotflat : isFlat (xs.take (rows * wd)) = false := by simp [hflat, hlt.ne']
    refine ⟨by rw [hdegen, hnotflat, Bool.false_or], fun r col v hrlt hcol hv => ?_⟩
    have hused : (xs.take (rows * wd))[r * wd + col]? = some v := by
      rw [List.getElem?_take_of_lt (row_col_lt hrlt hcol), hv]
    have hmem := List.mem_of_getElem? hused
    refine ⟨pixel (normalise lo hi v), ?_, ?_⟩
    · rw [rasterPixels_of_not_flat hnotflat, hmin, hmax, List.getElem?_map, hused]
      rfl
    · rw [pixel_toNat (normalise_le hlt (hhile v hmem)), normalise_cast hlt (hlole v hmem)]
  · have hisflat : isFlat (xs.take (rows * wd)) = true := by simp [hflat, heq]
    rw [rasterPixels_of_flat hisflat, hdegen, hisflat]
    refine ⟨rfl, fun z hz => ?_⟩
    obtain ⟨v, -, rfl⟩ := List.mem_map.mp hz
    rfl

/-! ### `COMBINE` (R267) -/

/-- The average of two bytes is a byte. -/
theorem averagePixel_toNat (x y : Byte) : (averagePixel x y).toNat = (x.toNat + y.toNat) / 2 :=
  pixel_toNat (by have := x.isLt; have := y.isLt; omega)

section Combine
variable {d a b : SlotIx} {s : State} {p q : Image}

theorem combineBody_of_same_shape (h : srcImages s a b = .ok (p, q)) (hrows : p.rows = q.rows)
    (hwidth : p.width = q.width) : combineBody d a b s =
      .ok (writeBuffer d (.image ⟨p.rows, p.width, p.pix.zipWith averagePixel q.pix⟩) s) := by
  simp [combineBody, h, hrows, hwidth, pure, Except.pure]

theorem combineBody_of_shape_ne (h : srcImages s a b = .ok (p, q)) (hne : p.rows ≠ q.rows ∨ p.width ≠ q.width) :
    combineBody d a b s = failAt .combine .shapeMismatch := by
  have hbad : (decide (p.rows ≠ q.rows) || decide (p.width ≠ q.width)) = true := by simpa using hne
  simp only [combineBody, h, hbad, except_bind_ok, failIf_true, failAt_bind]

end Combine

/-- Settles O39: the rule's one check is that of the shapes; with it passed the averages are stored. -/
theorem combineAveragesTwoImages : Obligations.CombineAveragesTwoImages := by
  intro d a b s p q hs ha hb
  have hsrc := (srcImages_eq_ok_iff s a b p q).mpr ⟨ha, hb⟩
  refine ⟨fun hrows hwidth hlen => ?_, fun hne =>
    exec_fails_of_rule_eq_failAt hs (combineBody_of_shape_ne hsrc hne)⟩
  obtain ⟨t, ht, hstores, hfspec, hdegen⟩ :=
    exec_stores_of_rule_eq_ok hs rfl rfl (by simp) (combineBody_of_same_shape hsrc hrows hwidth)
  exact ⟨t, _, ht, hstores, hfspec, hdegen, by simp [hlen], fun n x y hx hy =>
    ⟨averagePixel x y, by simp [List.getElem?_zipWith, hx, hy], averagePixel_toNat x y⟩⟩

end Sys2Proof.Machine
end

section
/-! PROOFS. The failures of a command (60_exceptions.md R284 to R289): its sources must be VALID and of a kind the table
gives, its result has the kind the table gives, and it has no effects but those of a failure. -/

namespace Sys2Proof.Machine

open Sys2Proof.Safety

/-- Settles O41: of the three things a command can do, success leaves class 0, and the other two are the failures. -/
theorem failuresHaveExactlyTheirEffects : Obligations.FailuresHaveExactlyTheirEffects := by
  intro i s t h herr
  obtain ⟨hs, rfl⟩ | ⟨hs, f, hf, rfl⟩ | ⟨-, g, -, rfl⟩ := exec_cases h
  · exact .inl ⟨hs, rfl⟩
  · exact .inr ⟨hs, f.stage, f.reason, hf, takeFailure_fails i f s⟩
  · exact absurd rfl herr

/-! ### The state of a source (R287 level 2) -/

section SourceState
variable {s : State} {a b : SlotIx}

theorem bind_eq_failAt {α β : Type} {x : Except Failure α} {f : α → Except Failure β} {g : Stage} {r : Reason}
    (h : x = failAt g r) : (x >>= f) = failAt g r := by
  rw [h, failAt_bind]

theorem srcBuffer_of_not_valid (h : ∀ c, slotAt s a ≠ .valid c) : srcBuffer s a = failAt .decode .slotState := by
  unfold srcBuffer
  cases hslot : slotAt s a with
  | empty => rfl
  | opened _ => rfl
  | valid c => exact absurd hslot (h c)

theorem srcSignal_of_not_valid (h : ∀ c, slotAt s a ≠ .valid c) : srcSignal s a = failAt .decode .slotState :=
  bind_eq_failAt (srcBuffer_of_not_valid h)

theorem srcReal_of_not_valid (h : ∀ c, slotAt s a ≠ .valid c) : srcReal s a = failAt .decode .slotState :=
  bind_eq_failAt (srcSignal_of_not_valid h)

/-- The state of both sources is looked at before the kind of either. -/
theorem srcImages_of_not_valid (h : (∀ c, slotAt s a ≠ .valid c) ∨ ∀ c, slotAt s b ≠ .valid c) :
    srcImages s a b = failAt .decode .slotState := by
  by_cases ha : ∃ c, slotAt s a = .valid c
  · obtain ⟨c, hc⟩ := ha
    have hb := h.resolve_left fun h => h c hc
    rw [srcImages, (srcBuffer_eq_ok_iff s a c).mpr hc, except_bind_ok]
    exact bind_eq_failAt (srcBuffer_of_not_valid hb)
  · exact bind_eq_failAt (srcBuffer_of_not_valid (not_exists.mp ha))

/-- The rule of every command looks at the state of its sources first. -/
theorem rule_of_source_not_valid {i : Instr} (h : ∃ a ∈ i.sources, ∀ c, slotAt s a ≠ .valid c) :
    rule i s = failAt .decode .slotState := by
  cases i with
  | nop | bopen | bclose | bfree => simp [Instr.sources] at h
  | demod d a | decim d a | bpdesign a | bpapply d a | agc d a =>
    exact bind_eq_failAt (srcSignal_of_not_valid (by simpa [Instr.sources] using h))
  | dcrem d a | resamp d a | extract d a ch | formimg d a c =>
    exact bind_eq_failAt (srcReal_of_not_valid (by simpa [Instr.sources] using h))
  | combine d a b => exact bind_eq_failAt (srcImages_of_not_valid (by simpa [Instr.sources] using h))

end SourceState

/-- Settles O15: the rule fails at its first look at the sources. -/
theorem sourcesMustBeValid : Obligations.SourcesMustBeValid :=
  fun _ _ hs h => exec_fails_of_rule_eq_failAt hs (rule_of_source_not_valid h)

/-! ### The kind of a source (R287 level 3, R288) -/

section SourceKind
variable {s : State} {a b : SlotIx} {x y : Buffer}

theorem srcSignal_of_image (ha : slotAt s a = .valid x) (hx : contentKind x = .image) :
    srcSignal s a = failAt .decode .kind := by
  rw [srcSignal, (srcBuffer_eq_ok_iff s a x).mpr ha, except_bind_ok]
  match x, hx with
  | .image im, _ => rfl

theorem srcReal_of_kind_ne (ha : slotAt s a = .valid x) (hx : contentKind x ≠ .real) :
    srcReal s a = failAt .decode .kind := by
  match x, hx with
  | .image im, _ => exact bind_eq_failAt (srcSignal_of_image ha rfl)
  | .signal { rate, chan, data := .complex zs }, _ => rw [srcReal, (srcSignal_eq_ok_iff s a _).mpr ha]; rfl
  | .signal { rate, chan, data := .real xs }, hx => exact absurd rfl hx

theorem asImage_of_kind_ne (hx : contentKind x ≠ .image) : asImage x = failAt .decode .kind := by
  cases x with
  | signal _ => rfl
  | image im => exact absurd rfl hx

theorem srcImages_of_kind_ne (ha : slotAt s a = .valid x) (hb : slotAt s b = .valid y)
    (h : contentKind x ≠ .image ∨ contentKind y ≠ .image) : srcImages s a b = failAt .decode .kind := by
  rw [srcImages, (srcBuffer_eq_ok_iff s a x).mpr ha, (srcBuffer_eq_ok_iff s b y).mpr hb, except_bind_ok, except_bind_ok]
  cases x with
  | signal _ => rfl
  | image im => exact bind_eq_failAt (x := asImage y) (asImage_of_kind_ne (h.resolve_left fun hne => hne rfl))

/-- With its sources VALID, the rule of every command looks at their kinds next. -/
theorem rule_of_source_kind {i : Instr} (hvalid : ∀ a ∈ i.sources, ∃ x, slotAt s a = .valid x)
    (h : ∃ a ∈ i.sources, ∃ x, slotAt s a = .valid x ∧ takesKind i (contentKind x) = false) :
    rule i s = failAt .decode .kind := by
  cases i with
  | nop | bopen | bclose | bfree => simp [Instr.sources] at h
  | demod d a | decim d a | bpdesign a | bpapply d a | agc d a =>
    obtain ⟨x, hx, hk⟩ : ∃ x, slotAt s a = .valid x ∧ contentKind x = .image := by
      simpa [Instr.sources, takesKind] using h
    exact bind_eq_failAt (srcSignal_of_image hx hk)
  | dcrem d a | resamp d a | extract d a ch | formimg d a c =>
    obtain ⟨x, hx, hk⟩ : ∃ x, slotAt s a = .valid x ∧ contentKind x ≠ .real := by
      simpa [Instr.sources, takesKind] using h
    exact bind_eq_failAt (srcReal_of_kind_ne hx hk)
  | combine d a b =>
    obtain ⟨x, hx⟩ := hvalid a (by simp [Instr.sources])
    obtain ⟨y, hy⟩ := hvalid b (by simp [Instr.sources])
    exact bind_eq_failAt (srcImages_of_kind_ne hx hy (by simpa [Instr.sources, takesKind, hx, hy] using h))

end SourceKind

/-! ### The kind of the result (R288) -/

/-- If the computation gives a state, slot `d` of it is VALID with kind `k`. -/
def StoresKind (d : SlotIx) (k : ContentKind) (x : Except Failure State) : Prop :=
  ∀ u, x = .ok u → ∃ c, slotAt u d = .valid c ∧ contentKind c = k

section ResultKind
variable {s : State} {d a : SlotIx} {k : ContentKind}

theorem StoresKind.bind {α : Type} {x : Except Failure α} {f : α → Except Failure State}
    (hf : ∀ v, x = .ok v → StoresKind d k (f v)) : StoresKind d k (x >>= f) := by
  cases x with
  | ok v => exact hf v rfl
  | error e => rintro u ⟨⟩

theorem storesKind_writeBuffer (hd : d.toNat < s.par.nslot) {c : Buffer} (hc : contentKind c = k) :
    StoresKind d k (.ok (writeBuffer d c s)) := by
  rintro u ⟨⟩
  exact ⟨c, slotAt_writeSlot_self _ hd, hc⟩

/-- The image of `FORMIMG` is stored with `DEGEN` raised or not. -/
theorem storesKind_image (hd : d.toNat < s.par.nslot) (im : Image) (flat : Bool) :
    StoresKind d .image (.ok (if flat then raiseDegen (writeBuffer d (.image im) s) else writeBuffer d (.image im) s)) := by
  rintro u ⟨⟩
  cases flat <;> exact ⟨.image im, slotAt_writeSlot_self _ hd, rfl⟩

theorem contentKind_signal_congr {b c : Signal} (h : c.data.kind = b.data.kind) :
    contentKind (.signal c) = contentKind (.signal b) := by
  match b, c, h with
  | { data := .real _, .. }, { data := .real _, .. }, _ => rfl
  | { data := .complex _, .. }, { data := .complex _, .. }, _ => rfl

/-- A linear operation keeps the kind of its source (00_scope.md R24). -/
theorem storesKind_mapParts (hd : d.toNat < s.par.nslot) (b : Signal) {g : Stage} {f : List Rat → Option (List Rat)}
    {rate : Rat} {chan : BitVec 2} :
    StoresKind d (contentKind (.signal b))
      (orOverflow g (mapParts f b.data) >>= fun out => .ok (writeSignal d rate chan out s)) :=
  .bind fun _ hout => storesKind_writeBuffer hd
    (contentKind_signal_congr (mapParts_kind ((orOverflow_eq_ok_iff _ _ _).mp hout)))

/-- A rule whose result has the kind of its source, a signal. -/
theorem StoresKind.bind_srcSignal {b : Buffer} {f : Signal → Except Failure State} (ha : slotAt s a = .valid b)
    (hf : ∀ x, StoresKind d (contentKind (.signal x)) (f x)) : StoresKind d (contentKind b) (srcSignal s a >>= f) :=
  .bind fun x hx => by
    obtain rfl := Slot.valid.inj (ha.symm.trans ((srcSignal_eq_ok_iff s a x).mp hx))
    exact hf x

/-- The one account of the fourteen results: none, one of a fixed kind, or one of the source's kind. -/
theorem rule_storesKind {i : Instr} {b : Buffer} (hs : i.slotsExist s.par.nslot = true) (hsrc : i.sources.head? = some a)
    (ha : slotAt s a = .valid b) (hdst : i.dst = some d) (hk : resultKind i (contentKind b) = some k) :
    StoresKind d k (rule i s) := by
  have hd : d.toNat < s.par.nslot := dst_toNat_lt_of_slotsExist hs hdst
  cases i with
  | nop | bclose | bpdesign => cases hdst
  | bopen | bfree => cases hsrc
  | demod =>
    cases hdst; cases hk
    exact .bind fun _ _ => .bind fun _ _ => storesKind_writeBuffer hd rfl
  | dcrem =>
    cases hdst; cases hk
    exact .bind fun (_, _) _ => .bind fun _ _ => storesKind_writeBuffer hd rfl
  | resamp =>
    cases hdst; cases hk
    exact .bind fun (_, _) _ => .bind fun _ _ => .bind fun _ _ => .bind fun _ _ => .bind fun _ _ => .bind fun _ _ =>
      storesKind_writeBuffer hd rfl
  | extract =>
    cases hdst; cases hk
    exact .bind fun (_, _) _ => .bind fun (_, _, _) _ => .bind fun _ _ => .bind fun f _ => .bind fun _ _ =>
      .bind fun _ _ => .bind fun _ _ => storesKind_writeBuffer (s := setFilter f s) hd rfl
  | formimg =>
    cases hdst; cases hk
    exact .bind fun (_, _) _ => .bind fun _ _ => .bind fun _ _ => storesKind_image hd _ _
  | combine =>
    cases hdst; cases hk
    exact .bind fun (_, _) _ => .bind fun _ _ => storesKind_writeBuffer hd rfl
  | decim =>
    cases hdst; cases hsrc; cases hk
    exact .bind_srcSignal ha fun x => .bind fun _ _ => .bind fun _ _ => .bind fun _ _ => .bind fun _ _ => .bind fun _ _ =>
      storesKind_mapParts hd x
  | bpapply =>
    cases hdst; cases hsrc; cases hk
    exact .bind_srcSignal ha fun x => .bind fun _ _ => .bind fun _ _ => .bind fun _ _ => storesKind_mapParts hd x
  | agc =>
    cases hdst; cases hsrc; cases hk
    exact .bind_srcSignal ha fun x => .bind fun _ _ => .bind fun _ _ => storesKind_mapParts hd x

end ResultKind

/-- Settles O16: the rule's second look at the sources; and a command that succeeds leaves what its rule gave. -/
theorem kindsFollowTheTable : Obligations.KindsFollowTheTable := by
  intro i s hs hvalid
  refine ⟨fun h => exec_fails_of_rule_eq_failAt hs (rule_of_source_kind hvalid h),
    fun t a b d k ht herr hsrc ha hdst hk => ?_⟩
  obtain ⟨u, hu, rfl⟩ := (err_eq_ok_iff ht hs).mp herr
  exact rule_storesKind hs hsrc ha hdst hk u hu

end Sys2Proof.Machine
end

section
/-! PROOFS. What every access does for the host (60_exceptions.md R286; 70_reset_and_hazards.md R332, R335): it completes,
it takes one input, and it leaves a sticky flag that is set unless it is the host's own clearing of it. -/

namespace Sys2Proof.Machine

open Sys2Proof.Safety

/-! ### A command word that does not decode (R284 (a)) -/

theorem step_of_undecodable {s : State} {w : Word} {e : DecodeError} {rest : List HostInput} (hw : decode w = .error e)
    (hp : s.pending = .regWrite Reg.cmd.index w :: rest) :
    step s = .next (takeDecodeFailure (opcField w) (decodeReason e) (setPendingInputs rest s)) :=
  calc step s = serve (.regWrite Reg.cmd.index w) (setPendingInputs rest s) := step_of_pending hp
    _ = serveCommand w (setPendingInputs rest s) := serve_regWrite_index .cmd w _
    _ = .next (takeDecodeFailure (opcField w) (decodeReason e) (setPendingInputs rest s)) := by rw [serveCommand, hw]

/-- Settles O7: the word reaches `serveCommand`, whose decoder rejects it. -/
theorem undecodableWordOnlyReports : Obligations.UndecodableWordOnlyReports :=
  fun _ _ _ hp => ⟨fun hw => ⟨_, step_of_undecodable hw hp, rfl⟩, fun hw => ⟨_, step_of_undecodable hw hp, rfl⟩⟩

/-! ### What an access keeps that is the host's -/

/-- The inputs still to come stay, and so does a sticky flag that is set. -/
structure KeepsHostState (s t : State) : Prop where
  pending : t.pending = s.pending
  sticky : s.sticky = true → t.sticky = true
  degen : s.degen = true → t.degen = true

section Access
variable {s t : State}

theorem KeepsHostState.refl (s : State) : KeepsHostState s s := ⟨rfl, id, id⟩

/-- A report of a failure sets `STICKY`. -/
theorem KeepsHostState.recordFailure (h : KeepsHostState s t) (c : BitVec 8) (g : Stage) (r : Reason) :
    KeepsHostState s (recordFailure c g r t) := ⟨h.pending, fun _ => rfl, h.degen⟩

/-- A command either sets `STICKY` or leaves it, and so for `DEGEN`. -/
theorem exec_keepsHostState (i : Instr) (s : State) : ∃ t, exec i s = .next t ∧ KeepsHostState s t := by
  have ht := (exec_eq_runCommand_rule i s).trans (runCommand_next i s (rule i s))
  refine ⟨_, ht, ?_⟩
  obtain ⟨-, h⟩ | ⟨-, f, -, h⟩ | ⟨-, g, hg, h⟩ := exec_cases ht <;> rw [h]
  · exact (KeepsHostState.refl s).recordFailure _ _ _
  · obtain ⟨-, hsticky, -, -, -, -, -, -, hdegen, hrest⟩ := takeFailure_fails i f s
    exact ⟨hrest.pending, fun _ => hsticky, hdegen.trans⟩
  · exact ⟨hg.rest.pending, hg.flags.1.trans, fun hs => hg.degen.elim (·.trans hs) (·.1)⟩

theorem serveCommand_keepsHostState (w : Word) (s : State) :
    ∃ t, serveCommand w s = .next t ∧ KeepsHostState s t := by
  unfold serveCommand
  cases decode w with
  | error e => exact ⟨_, rfl, (KeepsHostState.refl s).recordFailure _ _ _⟩
  | ok i => exact exec_keepsHostState i s

theorem appendWord_keepsHostState (b : Signal) (v : Rat) (s : State) : KeepsHostState s (appendWord b v s) := by
  have habort : KeepsHostState s (takePortFailure .capacity (abortLoad s)) := ⟨rfl, fun _ => rfl, id⟩
  unfold appendWord
  split
  · split
    · exact habort
    · exact ⟨rfl, id, id⟩
  · split
    · exact habort
    · exact ⟨rfl, id, id⟩
  · exact ⟨rfl, id, id⟩

theorem writeData_keepsHostState (w : Word) (s : State) : KeepsHostState s (writeData w s) := by
  unfold writeData
  split
  · exact ⟨rfl, fun _ => rfl, id⟩
  · split
    · exact ⟨rfl, fun _ => rfl, id⟩
    · exact appendWord_keepsHostState _ _ s

/-- Of the writes, only that to `STATUS` can clear a flag. -/
theorem writeReg_keepsHostState {r : Reg} (hr : r ≠ .status) (w : Word) (s : State) :
    ∃ t, writeReg r w s = .next t ∧ KeepsHostState s t := by
  cases r with
  | status => exact absurd rfl hr
  | cmd => exact serveCommand_keepsHostState w s
  | wdata => exact ⟨_, rfl, writeData_keepsHostState w s⟩
  | _ => exact ⟨_, rfl, rfl, id, id⟩

theorem serveRead_keepsHostState (ix : RegIx) (s : State) : KeepsHostState s (serveRead ix s) := by
  unfold serveRead
  split
  · exact ⟨rfl, id, id⟩
  · rename_i r _
    rw [recordRead]
    obtain h | ⟨-, h⟩ | ⟨-, h⟩ := readReg_snd_cases r s <;> rw [h] <;> exact ⟨rfl, id, id⟩

/-- What serving an input does: the reset, the host's acknowledgement, or an access that keeps what is the host's. -/
theorem serve_cases (x : HostInput) (s : State) :
    (x = .reset ∧ serve x s = .next (serveReset s))
    ∨ (∃ w, x = .regWrite Reg.status.index w ∧ serve x s = .next (acknowledge w s))
    ∨ ∃ t, serve x s = .next t ∧ KeepsHostState s t := by
  cases x with
  | reset => exact .inl ⟨rfl, rfl⟩
  | regRead ix => exact .inr (.inr ⟨_, rfl, serveRead_keepsHostState ix s⟩)
  | regWrite ix w =>
    cases hr : Reg.atIndex ix with
    | none => exact .inr (.inr ⟨s, serve_regWrite_reserved hr w s, .refl s⟩)
    | some r =>
      obtain rfl := index_of_atIndex hr
      rw [serve_regWrite_index]
      by_cases hstatus : r = .status
      · subst hstatus
        exact .inr (.inl ⟨w, rfl, rfl⟩)
      · exact .inr (.inr (writeReg_keepsHostState hstatus w s))

/-- Serving an input leads to a next state and consumes no other input. -/
theorem serve_next_pending (x : HostInput) (s : State) : ∃ t, serve x s = .next t ∧ t.pending = s.pending := by
  obtain ⟨-, h⟩ | ⟨w, -, h⟩ | ⟨t, h, hkeeps⟩ := serve_cases x s
  · exact ⟨_, h, rfl⟩
  · exact ⟨_, h, rfl⟩
  · exact ⟨t, h, hkeeps.pending⟩

end Access

/-- Settles O9: idle, or one input served. -/
theorem everyAccessCompletes : Obligations.EveryAccessCompletes := by
  intro s
  cases hp : s.pending with
  | nil => exact ⟨s, by rw [step, hp], fun _ => rfl, nofun⟩
  | cons x rest =>
    obtain ⟨t, ht, hrest⟩ := serve_next_pending x (setPendingInputs rest s)
    refine ⟨t, (step_of_pending hp).trans ht, nofun, fun y rest' h => ?_⟩
    cases h
    exact hrest

/-! ### Who clears a sticky flag (R332) -/

/-- What a step does to the sticky flags: it served the reset, or an acknowledgement, or left a flag that was set. -/
theorem step_flags_cases {s t : State} (h : step s = .next t) :
    (∃ rest, s.pending = .reset :: rest)
    ∨ (∃ rest w, s.pending = .regWrite Reg.status.index w :: rest ∧ t.sticky = (s.sticky && !w.getLsbD 4)
        ∧ t.degen = (s.degen && !w.getLsbD 8))
    ∨ ((s.sticky = true → t.sticky = true) ∧ (s.degen = true → t.degen = true)) := by
  obtain ⟨-, ho⟩ | ⟨x, rest, hp, ho⟩ := step_cases h
  · cases ho
    exact .inr (.inr ⟨id, id⟩)
  · obtain ⟨rfl, -⟩ | ⟨w, rfl, hx⟩ | ⟨t', hx, hkeeps⟩ := serve_cases x (setPendingInputs rest s)
    · exact .inl ⟨rest, hp⟩
    · cases ho.trans hx
      exact .inr (.inl ⟨rest, w, hp, rfl, rfl⟩)
    · cases ho.trans hx
      exact .inr (.inr ⟨hkeeps.sticky, hkeeps.degen⟩)

theorem step_of_statusWrite {s : State} {w : Word} {rest : List HostInput}
    (hp : s.pending = .regWrite Reg.status.index w :: rest) : step s = .next (acknowledge w (setPendingInputs rest s)) :=
  (step_of_pending hp).trans (serve_regWrite_index .status w _)

/-- Settles O43: a cleared flag leaves only the reset and the acknowledgement, whose bit must be set; the word 0x00000110
has both bits. -/
theorem stickyFlagsBelongToTheHost : Obligations.StickyFlagsBelongToTheHost := by
  refine ⟨fun s t h => ?_, fun s rest hp => ?_⟩
  · obtain ⟨rest, hp⟩ | ⟨rest, w, hp, hsticky, hdegen⟩ | ⟨hsticky, hdegen⟩ := step_flags_cases h
    · exact ⟨fun _ _ => ⟨rest, .inl hp⟩, fun _ _ => ⟨rest, .inl hp⟩⟩
    · exact ⟨fun hs ht => ⟨rest, .inr ⟨w, hp, by simpa [hs, ht] using hsticky⟩⟩,
        fun hs ht => ⟨rest, .inr ⟨w, hp, by simpa [hs, ht] using hdegen⟩⟩⟩
    · exact ⟨fun hs ht => by simp [hsticky hs] at ht, fun hs ht => by simp [hdegen hs] at ht⟩
  · have hbits : (0x00000110#32).getLsbD 4 = true ∧ (0x00000110#32).getLsbD 8 = true := by decide
    rw [step_of_statusWrite hp, acknowledge, hbits.1, hbits.2, Bool.not_true, Bool.and_false, Bool.and_false]
    rfl

end Sys2Proof.Machine
end
